-- ==== Sys2Proof/Word.lean ====
section
/-! DEFINITION. The data widths of sqlcrypt CORE (spec/00_scope.md R6, spec/10_state.md R21, R26, R27): bytes, 32-bit
words, 21-bit passphrase entries, and the 16-byte block in the column layout of spec/41_aes256.md R144. -/

namespace Sys2Proof

/-- A byte, the unit of all data (20_memory R51). -/
abbrev Byte := BitVec 8

/-- A 32-bit word: the host registers (R21) and the words of SHA-256 and the AES key schedule (R27). -/
abbrev Word := BitVec 32

/-- One entry of `PASS`: a 21-bit number (30_encoding R96). -/
abbrev CodePoint := BitVec 21

end Sys2Proof

namespace Sys2Proof.Machine

/-- A column of the AES state: the rows `0..3` of one column `c`, that is `s[4c .. 4c+3]` (41_aes256 R144). -/
structure Column where
  r0 : Byte
  r1 : Byte
  r2 : Byte
  r3 : Byte
deriving DecidableEq, Repr, Inhabited

/-- A 16-byte block as the 4×4 state `S[r][c]`, held column by column (41_aes256 R144): `S[r][c]` is `cc.rr`. -/
structure Block where
  c0 : Column
  c1 : Column
  c2 : Column
  c3 : Column
deriving DecidableEq, Repr, Inhabited

end Sys2Proof.Machine
end

