-- ==== Sys2Proof/Syntax.lean ====
section
/-! DEFINITION. The instruction set: one constructor per row of spec/opcode_table.json (spec/30_encoding.md R81, R97). -/

namespace Sys2Proof

/-- The six rows of the opcode table. The first three are the commands (format `CMDW`, R81, R82); the last three are the
data-format discriminators that select behaviour in `DECRYPT` (R97). No row has an operand field: the operands are the
buffers and length registers (R82). -/
inductive Instr where
  /-- `DERIVE_KEY` (40_kdf R122). -/
  | deriveKey
  /-- `ENCRYPT` (43_encoder R190). -/
  | encrypt
  /-- `DECRYPT` (44_decoder R210). -/
  | decrypt
  /-- `ENV.VERSION_V2`: the Version byte, step 2 of `DECRYPT` (44_decoder R212). -/
  | envVersionV2
  /-- `REC.MAGIC`: the Magic field, step 7 of `DECRYPT` (44_decoder R218). -/
  | recMagic
  /-- `REC.AUTHLEN_NONE`: the AuthLen field, step 8 of `DECRYPT` (44_decoder R219). -/
  | recAuthLenNone
deriving DecidableEq, Repr

end Sys2Proof
end

