-- ==== Sys2Proof/Decode.lean ====
section
/-! DEFINITION. Decoding and encoding (spec/30_encoding.md R80 to R91, R97; spec/opcode_table.json). The block decodes the
command word the host writes and the three data-format discriminators of an envelope. Rejection is by name. -/

namespace Sys2Proof

/-- The bytes of `v`, `k` of them, least significant first (`le16`, `le32` of 00_scope R8). -/
def leBytes : Nat → Nat → List Byte
  | 0, _ => []
  | k + 1, v => BitVec.ofNat 8 (v % 256) :: leBytes k (v / 256)

/-- The number whose little-endian bytes are given (`LE16`, `LE32` of 00_scope R8). -/
def leNum : List Byte → Nat
  | [] => 0
  | b :: bs => b.toNat + 256 * leNum bs

/-- Version: the only supported envelope version (R5, R87). -/
def versionV2 : Byte := 0x02

/-- Magic: the constant of every record (R5, R84). -/
def magicNumber : Word := 0xBAADF00D

/-- AuthLen: the only legal value (R5, R89). -/
def authLenNone : BitVec 16 := 0x0000

/-- The formats that hold a discriminator of the opcode table (R80, R97). -/
inductive Format where
  /-- `CMDW`, the command word (R82). -/
  | commandWord
  /-- `ENV` byte 0, the Version (R83, R87). -/
  | version
  /-- `REC` bytes 0 to 3, the Magic (R84, R85). -/
  | magic
  /-- `REC` bytes 4 and 5, the AuthLen (R84, R89). -/
  | authLen
deriving DecidableEq, Repr

/-- Why bytes are no instruction. The spec names the errors of the data fields; the names for command words, which R91 only calls
illegal, and for missing bytes are the model's: DESIGN CHOICE, safe (log entry 10). -/
inductive Reject where
  /-- Fewer bytes than the format has. -/
  | truncated
  /-- A command word whose `RSV` (bits 31:8) is not zero (R91). -/
  | reservedBits
  /-- A command word whose `OP` is not 1, 2 or 3 (R91). -/
  | illegalOp
  /-- A Version byte other than `02` (R87). -/
  | unsupportedVersion
  /-- A Magic other than `BAADF00D` (44_decoder R218). -/
  | magicMismatch
  /-- An AuthLen other than 0 (R89). -/
  | authenticatorUnsupported
deriving DecidableEq, Repr

/-- What a decoder answers: an instruction and the bytes after it, or a named rejection. -/
inductive Decoded (α : Type) where
  | ok (a : α)
  | rejected (r : Reject)
deriving DecidableEq, Repr

/-- The number of bytes of a discriminator (opcode_table.json). -/
def Format.size : Format → Nat
  | .commandWord => 4
  | .version => 1
  | .magic => 4
  | .authLen => 2

/-- The command word `CMDW` (R82, R91): `OP` in bits 7:0, `RSV` in bits 31:8. -/
def decodeCommand (w : Word) : Decoded Instr :=
  let op := w.extractLsb' 0 8
  let rsv := w.extractLsb' 8 24
  if rsv ≠ 0 then .rejected .reservedBits
  else if op = 0x01 then .ok .deriveKey
  else if op = 0x02 then .ok .encrypt
  else if op = 0x03 then .ok .decrypt
  else .rejected .illegalOp

/-- The Version byte (R87). -/
def decodeVersion (b : Byte) : Decoded Instr :=
  if b = versionV2 then .ok .envVersionV2 else .rejected .unsupportedVersion

/-- The Magic (R85, 44_decoder R218), read as `LE32(REC, 0)`. -/
def decodeMagic (v : Word) : Decoded Instr :=
  if v = magicNumber then .ok .recMagic else .rejected .magicMismatch

/-- The AuthLen (R85, R89), read as `LE16(REC, 4)`. -/
def decodeAuthLen (v : BitVec 16) : Decoded Instr :=
  if v = authLenNone then .ok .recAuthLenNone else .rejected .authenticatorUnsupported

/-- The instruction a discriminator of format `f` with value `v` stands for. -/
def decodeValue (f : Format) (v : Nat) : Decoded Instr :=
  match f with
  | .commandWord => decodeCommand (BitVec.ofNat 32 v)
  | .version => decodeVersion (BitVec.ofNat 8 v)
  | .magic => decodeMagic (BitVec.ofNat 32 v)
  | .authLen => decodeAuthLen (BitVec.ofNat 16 v)

/-- Decoding on any bytes: the discriminator of format `f` at the head of `bs`, and the bytes after it. Every multi-byte
field is little-endian (20_memory R52); the command word is a register (R21) and stands here as its four bytes, least
significant first (DESIGN CHOICE, safe, log entry 10). -/
def decode (f : Format) (bs : List Byte) : Decoded (Instr × List Byte) :=
  if bs.length < f.size then .rejected .truncated
  else match decodeValue f (leNum (bs.take f.size)) with
    | .ok i => .ok (i, bs.drop f.size)
    | .rejected r => .rejected r

/-- The format whose discriminator an instruction is (opcode_table.json). -/
def Instr.format : Instr → Format
  | .deriveKey => .commandWord
  | .encrypt => .commandWord
  | .decrypt => .commandWord
  | .envVersionV2 => .version
  | .recMagic => .magic
  | .recAuthLenNone => .authLen

/-- The bytes of an instruction, from the encoding tables: the command words of R82, Version of R83, Magic and AuthLen of
R85 (bytes in increasing offset). -/
def encode : Instr → List Byte
  | .deriveKey => [0x01, 0x00, 0x00, 0x00]
  | .encrypt => [0x02, 0x00, 0x00, 0x00]
  | .decrypt => [0x03, 0x00, 0x00, 0x00]
  | .envVersionV2 => [0x02]
  | .recMagic => [0x0D, 0xF0, 0xAD, 0xBA]
  | .recAuthLenNone => [0x00, 0x00]

/-- The format of the row a table word belongs to: 8 bits are the Version, 16 bits the AuthLen; a 32-bit word is the Magic
when it is its one value and a command word otherwise (the table gives both 32 bits; no word matches both). DESIGN CHOICE,
safe (log entry 10). -/
def tableFormat (nbits w : Nat) : Option Format :=
  if nbits = 8 then some .version
  else if nbits = 16 then some .authLen
  else if nbits = 32 then
    (if BitVec.ofNat 32 w = magicNumber then some .magic else some .commandWord)
  else none

/-- The instruction the decoder reads from a table word of `nbits` bits. -/
def decodeTableWord (nbits w : Nat) : Option Instr :=
  match tableFormat nbits w with
  | none => none
  | some f =>
    match decode f (leBytes f.size w) with
    | .ok (i, _) => some i
    | .rejected _ => none

end Sys2Proof
end

