-- ==== Sys2Proof/Config.lean ====
section
/-! DEFINITION. What a build fixes (the open parameters of spec/00_scope.md R5 and spec/92_eei_decisions.md D3, D10) and
the free values: the draws of the entropy source (spec/10_state.md R22) and what the host's
accesses give while a command runs (spec/93_implementation_defined.md U2, U3). -/

namespace Sys2Proof

/-- The open parameters of a build (R5, R31, D3, D10, U14). `none` is D3's "unbounded". `ADDR_MAP` is left out: no rule
reads it (D23). -/
structure Config where
  /-- `PASS_CAP`: below 2^60 code points (R5). -/
  passCap : Option (Fin (2 ^ 60))
  /-- `IN_CAP`: at least 65572 bytes (R5). -/
  inCap : Option { n : Nat // 65572 ≤ n }
  /-- Whether the build has the command `DERIVE_KEY` (D10). -/
  hasDeriveKey : Bool
deriving DecidableEq, Repr

/-- The reference reading of 92_eei_decisions.md ("Open parameters, collected"): capacities unbounded, `DERIVE_KEY`
present. DESIGN CHOICE, unsafe (log entry 2): the machine of `State.reset` is this build. -/
def Config.reference : Config := ⟨none, none, true⟩

/-- The answer of the entropy source to draw number `n` (R22, U10: any value). FREE VALUE, safe (log entry 3). -/
opaque Config.freeDraw : Nat → Machine.Block

/-- What a read that U3 leaves open answers, as free value number `n`. FREE VALUE, safe (log entry 8). -/
opaque Config.freeRead : Nat → Word

/-- What the command in progress takes for an operand the host writes while it runs (U2: any value), as free value number `n`.
FREE VALUE (log entry 8). -/
opaque Config.freeOperand : Nat → Word

end Sys2Proof
end

