-- ==== Sys2Proof/Machine/State.lean ====
section
/-! DEFINITION. The state of sqlcrypt CORE, all of it (spec/10_state.md), as plain data, and its value after reset (R34). -/

namespace Sys2Proof.Machine

/-- A buffer in canonical form: (index, entry) pairs, indices strictly rising, no entry equal to 0, which is what an
unlisted index reads as (R34: every entry of `PASS`, `IN`, `OUT` is zero after reset; 20_memory R50). `Memory 8` is a list
of `Host.Cell`. -/
abbrev Memory (w : Nat) := List (Nat × BitVec w)

/-- `STATUS.ST` (R24); the value 3 is never produced. -/
inductive RunState where
  /-- 0: no command has completed since reset. -/
  | idle
  /-- 1: a command is executing. -/
  | busy
  /-- 2: the last command has completed. -/
  | done
deriving DecidableEq, Repr

/-- The error codes of `STATUS.ERR` (60_exceptions R240); the values 10 to 15 are never produced. -/
inductive ErrCode where
  | ok
  | inputTooLarge
  | unsupportedVersion
  | malformedEnvelope
  | paddingInvalid
  | magicMismatch
  | authenticatorUnsupported
  /-- Keeps its code and is never raised (41_aes256 R154, D24). -/
  | cipherInitError
  | illegalCommand
  | badOperand
deriving DecidableEq, Repr

/-- `STEP`, the numbered step of the command in progress (R28): 0 to 10 and `DECRYPT`'s 6b (44_decoder R217). -/
inductive StepNo where
  | s0 | s1 | s2 | s3 | s4 | s5 | s6 | s6b | s7 | s8 | s9 | s10
deriving DecidableEq, Repr

/-- Eight 32-bit words: the chaining value `H[0..7]` (`a` is `H[0]`) or the working variables `a..h` (R27). -/
structure ShaWords where
  a : Word
  b : Word
  c : Word
  d : Word
  e : Word
  f : Word
  g : Word
  h : Word
deriving DecidableEq, Repr

/-- The registers of the SHA-256 unit (R27). -/
structure ShaRegs where
  /-- `H[0..7]`. -/
  h : ShaWords
  /-- `W[0..63]`, the message schedule of the current 64-byte block. -/
  w : Vector Word 64
  /-- `a..h`, the working variables. -/
  v : ShaWords
deriving DecidableEq, Repr

/-- The operands as a command samples them at the write of `CMD` (R23, R277): `PASS_LEN`, `IN_LEN`, `PASS`, `IN`. -/
structure Sampled where
  passLen : Word
  inLen : Word
  pass : Memory 21
  inBuf : Memory 8
deriving DecidableEq, Repr

/-- The working registers (R27), not visible to the host. -/
structure Work where
  /-- The sampled operands, which the command in progress reads (R23, R277); not in R27's list (DESIGN CHOICE, log entry 14). -/
  ops : Sampled
  /-- `KEY`, 32 bytes. -/
  key : Vector Byte 32
  /-- `MSG`, the UTF-16LE encoding of the passphrase. -/
  msg : Memory 8
  /-- `H`, `W`, `a..h`. -/
  sha : ShaRegs
  /-- `RK[0..59]`, the expanded key. -/
  rk : Vector Word 60
  /-- `S`, the AES state. -/
  aesState : Block
  /-- `IVR`, the IV. -/
  ivr : Block
  /-- `CHAIN`, the previous ciphertext block. -/
  chain : Block
  /-- `REC`, the padded record. -/
  recBuf : Memory 8
  /-- `REC_LEN`, the number of valid bytes in `REC`. -/
  recLen : Word
  /-- `BODY`, the ciphertext of the pseudocode of R190 and R210; not in R27's list (DESIGN CHOICE, safe, log entry 5). -/
  body : List Byte
deriving DecidableEq, Repr

/-- Eight zero words. -/
def ShaWords.zero : ShaWords := ⟨0, 0, 0, 0, 0, 0, 0, 0⟩

/-- A block of zeros. -/
def zeroBlock : Block := ⟨⟨0, 0, 0, 0⟩, ⟨0, 0, 0, 0⟩, ⟨0, 0, 0, 0⟩, ⟨0, 0, 0, 0⟩⟩

/-- Nothing sampled. -/
def Sampled.none : Sampled := ⟨0, 0, [], []⟩

/-- Every working register zero: reset (R34) and the end of every command (R29). -/
def Work.zero : Work where
  ops := Sampled.none
  key := Vector.replicate 32 0
  msg := []
  sha := ⟨ShaWords.zero, Vector.replicate 64 0, ShaWords.zero⟩
  rk := Vector.replicate 60 0
  aesState := zeroBlock
  ivr := zeroBlock
  chain := zeroBlock
  recBuf := []
  recLen := 0
  body := []

/-- The entropy source as the block sees it (R22, R254): the answers a test harness has fixed (R94's `DRAW =` line),
oldest first, and the number of draws made. Where no answer is fixed, draw `n` answers `Config.freeDraw n`. The model's own
fields (DESIGN CHOICE, safe, log entry 3). -/
structure Entropy where
  fixed : List Block
  drawn : Nat
deriving DecidableEq, Repr

/-- The five host-visible registers (R21). -/
inductive HostReg where
  | cmd
  | status
  | passLen
  | inLen
  | outLen
deriving DecidableEq, Repr

/-- The three host-visible buffers (R26). -/
inductive HostBuf where
  | pass
  | inp
  | out
deriving DecidableEq, Repr

/-- One access of the host, or the reset pin (R20, R21, R26, R270). -/
inductive HostAccess where
  | writeReg (r : HostReg) (v : Word)
  | readReg (r : HostReg)
  | writePass (i : Nat) (v : CodePoint)
  | writeIn (i : Nat) (v : Byte)
  | writeOut (i : Nat) (v : Byte)
  | readBuf (b : HostBuf) (i : Nat)
  | reset
deriving DecidableEq, Repr

/-- The state of one CORE block with its host and its entropy source. -/
structure State where
  /-- The build's open parameters; no step changes them (R31; log entry 2). -/
  build : Config
  /-- `CMD`, the command word last written (R23). -/
  cmd : Word
  /-- `STATUS.ST` (R24). -/
  st : RunState
  /-- `STATUS.ERR` (R24). -/
  err : ErrCode
  /-- `PASS_LEN` (R25). -/
  passLen : Word
  /-- `IN_LEN` (R25). -/
  inLen : Word
  /-- `OUT_LEN` (R25). -/
  outLen : Word
  /-- `PASS` (R26). -/
  pass : Memory 21
  /-- `IN` (R26). -/
  inBuf : Memory 8
  /-- `OUT` (R26). -/
  out : Memory 8
  /-- `STEP` (R28). -/
  stepNo : StepNo
  /-- The working registers (R27), with the sampled operands (R23). -/
  work : Work
  /-- The entropy source (R22). -/
  entropy : Entropy
  /-- The host's coming accesses, oldest first (R20; the model's own, log entry 1). -/
  hostQueue : List HostAccess
  /-- The word the last host access read, zero-extended; `none` when it was no read (the model's own, log entry 11). -/
  answer : Option Word
  /-- The number of free values handed to the host accesses that U2 and U3 leave open (the model's own, log entry 8). -/
  freeReads : Nat
deriving DecidableEq, Repr

/-- Why the machine stops with a fault. -/
inductive Fault where
  /-- A host access to a buffer entry outside R50's index ranges. Raised by the host's buffer accesses
  (`Sys2Proof.Machine.hostAccess`, `Sys2Proof.Machine.busyAccess`). Safe (log entry 9). -/
  | noSuchEntry (b : HostBuf) (i : Nat)
  /-- `STEP` is not a step of the command in progress (R28). Raised by `Sys2Proof.Machine.sequence` only, in states no run
  from reset reaches. Safe (log entry 7). -/
  | noSuchStep (n : StepNo)
deriving DecidableEq, Repr

/-- Why the machine gives no meaning. -/
inductive Refusal where
  /-- An instruction with no meaning yet. Raised by an arm of `exec`; no arm raises it now. Safe. -/
  | notModelled (mnemonic : String)
deriving DecidableEq, Repr

/-- The state of a build right after reset (R34), the host about to make no access. -/
def State.resetOf (c : Config) : State where
  build := c
  cmd := 0
  st := .idle
  err := .ok
  passLen := 0
  inLen := 0
  outLen := 0
  pass := []
  inBuf := []
  out := []
  stepNo := .s0
  work := Work.zero
  entropy := ⟨[], 0⟩
  hostQueue := []
  answer := none
  freeReads := 0

/-- The machine right after reset: the reference build (log entry 2) with R34's values; `STEP`, which R34 gives no
meaning, is step 0 (log entry 4). -/
def State.reset : State := State.resetOf Config.reference

end Sys2Proof.Machine
end

