-- ==== Sys2Proof/Machine/Operands.lean ====
section
/-! DEFINITION. The forms in which operands are read and written: byte sequences, integer fields, blocks, and the reads of
the buffers (spec/00_scope.md R5 to R8, spec/20_memory.md R50 to R57, R65; spec/30_encoding.md R96). -/

namespace Sys2Proof.Machine

/-- `BLOCK` (R5). -/
def blockSize : Nat := 16
/-- `KEY_LEN` (R5). -/
def keyLen : Nat := 32
/-- `ENV_HDR`: Version, Reserved, IV (R5). -/
def envHdr : Nat := 20
/-- `REC_HDR`: Magic, AuthLen, PlaintextLength (R5). -/
def recHdr : Nat := 8
/-- `ENV_MIN` (R5). -/
def envMin : Nat := 36
/-- `PT_MAX` (R5). -/
def ptMax : Nat := 65535
/-- `OUT_CAP`, also `ENV_MAX_ENC` (R5). -/
def outCap : Nat := 65572

/-! ### Memories -/

/-- The canonical form: indices strictly rising and no entry 0. -/
abbrev Memory.wf {w : Nat} (m : Memory w) : Prop :=
  m.Pairwise (fun c d => c.1 < d.1) ∧ ∀ c ∈ m, c.2 ≠ 0

/-- The entry at index `a`; an unlisted index reads 0 (R34). -/
def Memory.read {w : Nat} : Memory w → Nat → BitVec w
  | [], _ => 0
  | c :: m, a => if c.1 = a then c.2 else Memory.read m a

/-- `MemRead(BUF, a, n)` (R9): the `n` entries from index `a`. It changes nothing (R56). -/
def Memory.readRange {w : Nat} (m : Memory w) : Nat → Nat → List (BitVec w)
  | _, 0 => []
  | a, n + 1 => m.read a :: Memory.readRange m (a + 1) n

/-- The entry `v` at index `a` before the cells `m`: no cell when it is 0. -/
def Memory.put {w : Nat} (a : Nat) (v : BitVec w) (m : Memory w) : Memory w := if v = 0 then m else (a, v) :: m

/-- The memory with entry `a` set to `v`, in canonical form. -/
def Memory.write {w : Nat} : Memory w → Nat → BitVec w → Memory w
  | [], a, v => Memory.put a v []
  | c :: m, a, v =>
    if a < c.1 then Memory.put a v (c :: m)
    else if c.1 = a then Memory.put a v m
    else c :: Memory.write m a v

/-- `MemWrite(BUF, a, n, v)` (R9): the entries `v` from index `a`. -/
def Memory.writeRange {w : Nat} : Memory w → Nat → List (BitVec w) → Memory w
  | m, _, [] => m
  | m, a, v :: vs => Memory.writeRange (m.write a v) (a + 1) vs

/-- The cells of the entries `vs` from index `a`, the zero ones left out. -/
def Memory.cellsFrom {w : Nat} : Nat → List (BitVec w) → Memory w
  | _, [] => []
  | a, v :: vs => Memory.put a v (Memory.cellsFrom (a + 1) vs)

/-- The memory that holds exactly `vs` from index 0 and zeros after it. -/
def Memory.ofList {w : Nat} (vs : List (BitVec w)) : Memory w := Memory.cellsFrom 0 vs

/-! ### Byte sequences and integer fields -/

/-- `le16(v)` (R8). -/
def le16 (v : Nat) : List Byte := leBytes 2 v
/-- `le32(v)` (R8). -/
def le32 (v : Nat) : List Byte := leBytes 4 v

/-- The bytes of `v`, `k` of them, most significant first (`be32`, `be64` of R8). -/
def beBytes (k v : Nat) : List Byte := (leBytes k v).reverse

/-- `BE32` of the first four bytes (R8). -/
def be32Word (bs : List Byte) : Word := BitVec.ofNat 32 (leNum (bs.take 4).reverse)

/-- `be32(w)` (R8). -/
def wordBytes (w : Word) : List Byte := beBytes 4 w.toNat

/-- `n` pieces of `k` elements each, from the front (the blocks of R113 and R170). -/
def pieces {α : Type} (k : Nat) : Nat → List α → List (List α)
  | 0, _ => []
  | n + 1, l => l.take k :: pieces k n (l.drop k)

/-- A vector of `n` elements from a list: its first `n`, missing ones `d`. -/
def toVector {α : Type} (n : Nat) (d : α) (l : List α) : Vector α n :=
  ⟨(l.take n ++ List.replicate (n - l.length) d).toArray, by simp; omega⟩

/-! ### Blocks -/

/-- Four bytes as a column. -/
def Column.ofBytes (bs : List Byte) : Column := ⟨bs.getD 0 0, bs.getD 1 0, bs.getD 2 0, bs.getD 3 0⟩

/-- The 16 bytes `in[0..15]` of a block fill the state column by column (41_aes256 R144). -/
def Block.ofBytes (bs : List Byte) : Block :=
  ⟨Column.ofBytes bs, Column.ofBytes (bs.drop 4), Column.ofBytes (bs.drop 8), Column.ofBytes (bs.drop 12)⟩

/-- The bytes of a column, row 0 first. -/
def Column.bytes (c : Column) : List Byte := [c.r0, c.r1, c.r2, c.r3]

/-- The output block, read back column by column (41_aes256 R144). -/
def Block.bytes (b : Block) : List Byte := b.c0.bytes ++ b.c1.bytes ++ b.c2.bytes ++ b.c3.bytes

/-- Bytewise exclusive or of columns. -/
def Column.xor (x y : Column) : Column := ⟨x.r0 ^^^ y.r0, x.r1 ^^^ y.r1, x.r2 ^^^ y.r2, x.r3 ^^^ y.r3⟩

/-- `X xor Y` on 16-byte sequences (R7). -/
def Block.xor (x y : Block) : Block := ⟨x.c0.xor y.c0, x.c1.xor y.c1, x.c2.xor y.c2, x.c3.xor y.c3⟩

/-- The 16-byte blocks of a byte string (R55: offsets 0, 16, 32, ...). R170 and R171 have whole blocks only; a rest shorter than a
block is dropped: DESIGN CHOICE (log entry 7). -/
def toBlocks (bs : List Byte) : List Block := (pieces 16 (bs.length / 16) bs).map Block.ofBytes

/-- The bytes of a list of blocks, in order. -/
def ofBlocks (xs : List Block) : List Byte := xs.flatMap Block.bytes

/-! ### The operands of a command -/

/-- A Unicode scalar value: 0..0xD7FF or 0xE000..0x10FFFF (30_encoding R96). -/
def isScalar (c : CodePoint) : Bool :=
  c.toNat < 0xD800 || (0xE000 ≤ c.toNat && c.toNat ≤ 0x10FFFF)

/-- The operand registers and buffers as they stand: what a write of `CMD` samples (R23). -/
def State.operands (s : State) : Sampled := ⟨s.passLen, s.inLen, s.pass, s.inBuf⟩

/-- The passphrase `P = PASS[0 .. PASS_LEN-1]` (R25). Step 0 has checked `PASS_LEN` where a whole command uses it; elsewhere `PASS`
is read whatever `PASS_CAP` is: DESIGN CHOICE (log entry 7). -/
def Sampled.passphrase (o : Sampled) : List CodePoint := o.pass.readRange 0 o.passLen.toNat

/-- The input data `IN[0, IN_LEN)` (R25). Every whole command that reads it has `IN_LEN` at most `IN_CAP`; in a `BUSY` state with a
greater `IN_LEN` the indices past `IN_CAP`, which R50 does not have, are read as any other: DESIGN CHOICE (log entry 7). -/
def Sampled.input (o : Sampled) : List Byte := o.inBuf.readRange 0 o.inLen.toNat

/-- The passphrase in the host's registers, which the next command samples. -/
def State.passphrase (s : State) : List CodePoint := s.operands.passphrase

/-- The input data in the host's registers, which the next command samples. -/
def State.input (s : State) : List Byte := s.operands.input

/-- The output `OUT[0, OUT_LEN)` (R25). -/
def State.output (s : State) : List Byte := s.out.readRange 0 s.outLen.toNat

/-- The valid bytes `REC[0, REC_LEN)` (R27). -/
def State.record (s : State) : List Byte := s.work.recBuf.readRange 0 s.work.recLen.toNat

/-- `n <= cap`, an unbounded capacity carrying any length (D3). -/
def withinCap (cap : Option Nat) (n : Nat) : Bool :=
  match cap with
  | none => true
  | some c => n ≤ c

/-- `PASS_CAP` of the build. -/
def State.passCap (s : State) : Option Nat := s.build.passCap.map Fin.val

/-- `IN_CAP` of the build. -/
def State.inCap (s : State) : Option Nat := s.build.inCap.map Subtype.val

/-- A passphrase operand can be presented (R243): `PASS_LEN <= PASS_CAP` and every entry below `PASS_LEN` is a scalar value. -/
def State.passPresentable (s : State) (o : Sampled) : Bool :=
  withinCap s.passCap o.passLen.toNat && o.passphrase.all isScalar

/-- `IN_LEN <= IN_CAP` (R243). -/
def State.inPresentable (s : State) (o : Sampled) : Bool := withinCap s.inCap o.inLen.toNat

/-- The passphrase in the host's registers can be presented (R243). -/
def State.passOperandOk (s : State) : Bool := s.passPresentable s.operands

/-- The input in the host's registers can be presented (R243). -/
def State.inOperandOk (s : State) : Bool := s.inPresentable s.operands

/-- The index exists in the buffer (R50). -/
def State.hasEntry (s : State) (b : HostBuf) (i : Nat) : Bool :=
  match b with
  | .pass => withinCap s.passCap (i + 1)
  | .inp => withinCap s.inCap (i + 1)
  | .out => i < outCap

end Sys2Proof.Machine
end

