-- ==== Sys2Proof/Machine/Flags.lean ====
section
/-! DEFINITION. The condition code and the status word (spec/10_state.md R24, spec/60_exceptions.md R240, spec/30_encoding.md
R93): `ERR` is the only condition code of the block (R32). -/

namespace Sys2Proof.Machine

/-- `ST` as its two bits (R24). -/
def RunState.code : RunState → BitVec 2
  | .idle => 0
  | .busy => 1
  | .done => 2

/-- `ERR` as its four bits (R240). -/
def ErrCode.code : ErrCode → BitVec 4
  | .ok => 0
  | .inputTooLarge => 1
  | .unsupportedVersion => 2
  | .malformedEnvelope => 3
  | .paddingInvalid => 4
  | .magicMismatch => 5
  | .authenticatorUnsupported => 6
  | .cipherInitError => 7
  | .illegalCommand => 8
  | .badOperand => 9

/-- A `STATUS` word: `ST` in bits 1:0, `ERR` in bits 11:8, the reserved bits zero (R24). -/
def statusOf (st : BitVec 2) (err : BitVec 4) : Word :=
  ((0 : BitVec 20) ++ err ++ (0 : BitVec 6) ++ st)

/-- The `STATUS` register (R24). -/
def State.statusWord (s : State) : Word := statusOf s.st.code s.err.code

end Sys2Proof.Machine
end

