-- ==== Sys2Proof/Machine/Ops.lean ====
section
/-! DEFINITION. The shared operations: the draw (spec/10_state.md R22), the start of a command, the sequencer's move to the
next step (R28), a bounded read (spec/20_memory.md R57), and the two completions, which are the block's exceptions and
returns (spec/60_exceptions.md R247, R248). -/

namespace Sys2Proof.Machine

/-- The 16 bytes the next `Draw16()` answers (R22): the harness's next answer (R94), else a free value. -/
def State.nextDraw (s : State) : Block :=
  match s.entropy.fixed with
  | d :: _ => d
  | [] => Config.freeDraw s.entropy.drawn

/-- The entropy source after one draw: the draw is consumed (R22, R56). -/
def State.afterDraw (s : State) : State :=
  { s with entropy := ⟨s.entropy.fixed.tail, s.entropy.drawn + 1⟩ }

/-- A command starts: `ST` is `BUSY`, `STEP` is 0 (R24, R28), and the operands are sampled (R23). -/
def State.start (s : State) : State :=
  { s with st := .busy, stepNo := .s0, work := { s.work with ops := s.operands } }

/-- `STEP <- n` (R9, R28). -/
def State.goTo (s : State) (n : StepNo) : State := { s with stepNo := n }

/-- The working registers take the values `w` and `STEP <- n`. -/
def State.setWork (s : State) (w : Work) (n : StepNo) : State := { s with work := w, stepNo := n }

/-- Success completion `done(out)` (R247), one atomic update: `OUT` is `out` and zeros, `OUT_LEN` its length, `ERR` 0, `ST`
`DONE`, the working registers zero (R29). `STEP`, which has no meaning now, is step 0 (log entry 4). No whole command's output
exceeds the 65572 bytes of `OUT` (R197); on a longer one `OUT` takes the entries past its end, and `OUT_LEN` the length modulo
2^32: DESIGN CHOICE (log entry 7). -/
def State.complete (s : State) (out : List Byte) : State :=
  { s with
    out := Memory.ofList out
    outLen := BitVec.ofNat 32 out.length
    err := .ok
    st := .done
    work := Work.zero
    stepNo := .s0 }

/-- Error completion `raise E` (R248), one atomic update: `OUT` all zero, `OUT_LEN` 0, `ERR` the code of `E`, `ST` `DONE`, the
working registers zero (R29). There is no saved state, no handler and no return (R248, R249). -/
def State.raise (s : State) (e : ErrCode) : State :=
  { s with
    out := []
    outLen := 0
    err := e
    st := .done
    work := Work.zero
    stepNo := .s0 }

/-- What one numbered step answers (R28): the command goes on at the next step, or it has ended. -/
inductive Ctl where
  | more (s : State)
  | ended (s : State)
deriving DecidableEq, Repr

/-- The state a step leaves. -/
def Ctl.state : Ctl → State
  | .more s => s
  | .ended s => s

/-- The next step runs unless the command has ended (R28, R246). -/
def Ctl.andThen : Ctl → (State → Ctl) → Ctl
  | .more s, f => f s
  | .ended s, _ => .ended s

/-- A step that raises (R9, R248). -/
def Ctl.raise (s : State) (e : ErrCode) : Ctl := .ended (s.raise e)

/-- `MemRead(IN, a, n)` in a step of `DECRYPT`, on the input as sampled (R23): only inside the valid length; an access outside it surfaces as
`MalformedEnvelope` (R57, R276). In a whole command the earlier checks make the second case impossible (log entry 7). The bound
is `IN_LEN` alone: in a `BUSY` state with `IN_LEN` above `IN_CAP`, indices past `IN_CAP`, which R50 does not have, are read as any
other: DESIGN CHOICE (log entry 7). -/
def Ctl.readIn (s : State) (a n : Nat) (k : List Byte → Ctl) : Ctl :=
  if a + n ≤ s.work.ops.inLen.toNat then k (s.work.ops.inBuf.readRange a n) else .raise s .malformedEnvelope

/-- `MemRead(REC, a, n)` in a step of `DECRYPT`, bounded in the same way (R57, R276). -/
def Ctl.readRec (s : State) (a n : Nat) (k : List Byte → Ctl) : Ctl :=
  if a + n ≤ s.work.recLen.toNat then k (s.work.recBuf.readRange a n) else .raise s .malformedEnvelope

end Sys2Proof.Machine
end

