-- ==== Sys2Proof/Machine/Aes.lean ====
section
/-! DEFINITION. The AES unit: AES-256 key expansion, block encryption and block decryption (spec/41_aes256.md). -/

namespace Sys2Proof.Machine

/-! ### The field GF(2^8) (R141) -/

/-- `xtime(a)` (R141). -/
def xtime (a : Byte) : Byte := if a < 0x80 then a <<< 1 else (a <<< 1) ^^^ 0x1B

/-- `xtime` applied `i` times. -/
def xtimes : Nat → Byte → Byte
  | 0, a => a
  | i + 1, a => xtime (xtimes i a)

/-- `gmul(a,b)` (R141): the exclusive or over the set bits `i` of `b` of `xtime` applied `i` times to `a`. -/
def gmul (a b : Byte) : Byte :=
  (List.range 8).foldl (fun acc i => if b.getLsbD i then acc ^^^ xtimes i a else acc) 0

/-! ### Tables -/

/-- `SBOX` as the spec prints it (R142): row = high nibble, column = low nibble. -/
def sboxRows : List (List Byte) :=
  [[0x63, 0x7c, 0x77, 0x7b, 0xf2, 0x6b, 0x6f, 0xc5, 0x30, 0x01, 0x67, 0x2b, 0xfe, 0xd7, 0xab, 0x76],
   [0xca, 0x82, 0xc9, 0x7d, 0xfa, 0x59, 0x47, 0xf0, 0xad, 0xd4, 0xa2, 0xaf, 0x9c, 0xa4, 0x72, 0xc0],
   [0xb7, 0xfd, 0x93, 0x26, 0x36, 0x3f, 0xf7, 0xcc, 0x34, 0xa5, 0xe5, 0xf1, 0x71, 0xd8, 0x31, 0x15],
   [0x04, 0xc7, 0x23, 0xc3, 0x18, 0x96, 0x05, 0x9a, 0x07, 0x12, 0x80, 0xe2, 0xeb, 0x27, 0xb2, 0x75]] ++
  [[0x09, 0x83, 0x2c, 0x1a, 0x1b, 0x6e, 0x5a, 0xa0, 0x52, 0x3b, 0xd6, 0xb3, 0x29, 0xe3, 0x2f, 0x84],
   [0x53, 0xd1, 0x00, 0xed, 0x20, 0xfc, 0xb1, 0x5b, 0x6a, 0xcb, 0xbe, 0x39, 0x4a, 0x4c, 0x58, 0xcf],
   [0xd0, 0xef, 0xaa, 0xfb, 0x43, 0x4d, 0x33, 0x85, 0x45, 0xf9, 0x02, 0x7f, 0x50, 0x3c, 0x9f, 0xa8],
   [0x51, 0xa3, 0x40, 0x8f, 0x92, 0x9d, 0x38, 0xf5, 0xbc, 0xb6, 0xda, 0x21, 0x10, 0xff, 0xf3, 0xd2]] ++
  [[0xcd, 0x0c, 0x13, 0xec, 0x5f, 0x97, 0x44, 0x17, 0xc4, 0xa7, 0x7e, 0x3d, 0x64, 0x5d, 0x19, 0x73],
   [0x60, 0x81, 0x4f, 0xdc, 0x22, 0x2a, 0x90, 0x88, 0x46, 0xee, 0xb8, 0x14, 0xde, 0x5e, 0x0b, 0xdb],
   [0xe0, 0x32, 0x3a, 0x0a, 0x49, 0x06, 0x24, 0x5c, 0xc2, 0xd3, 0xac, 0x62, 0x91, 0x95, 0xe4, 0x79],
   [0xe7, 0xc8, 0x37, 0x6d, 0x8d, 0xd5, 0x4e, 0xa9, 0x6c, 0x56, 0xf4, 0xea, 0x65, 0x7a, 0xae, 0x08]] ++
  [[0xba, 0x78, 0x25, 0x2e, 0x1c, 0xa6, 0xb4, 0xc6, 0xe8, 0xdd, 0x74, 0x1f, 0x4b, 0xbd, 0x8b, 0x8a],
   [0x70, 0x3e, 0xb5, 0x66, 0x48, 0x03, 0xf6, 0x0e, 0x61, 0x35, 0x57, 0xb9, 0x86, 0xc1, 0x1d, 0x9e],
   [0xe1, 0xf8, 0x98, 0x11, 0x69, 0xd9, 0x8e, 0x94, 0x9b, 0x1e, 0x87, 0xe9, 0xce, 0x55, 0x28, 0xdf],
   [0x8c, 0xa1, 0x89, 0x0d, 0xbf, 0xe6, 0x42, 0x68, 0x41, 0x99, 0x2d, 0x0f, 0xb0, 0x54, 0xbb, 0x16]]

/-- `INV_SBOX` as the spec prints it (R143). -/
def invSboxRows : List (List Byte) :=
  [[0x52, 0x09, 0x6a, 0xd5, 0x30, 0x36, 0xa5, 0x38, 0xbf, 0x40, 0xa3, 0x9e, 0x81, 0xf3, 0xd7, 0xfb],
   [0x7c, 0xe3, 0x39, 0x82, 0x9b, 0x2f, 0xff, 0x87, 0x34, 0x8e, 0x43, 0x44, 0xc4, 0xde, 0xe9, 0xcb],
   [0x54, 0x7b, 0x94, 0x32, 0xa6, 0xc2, 0x23, 0x3d, 0xee, 0x4c, 0x95, 0x0b, 0x42, 0xfa, 0xc3, 0x4e],
   [0x08, 0x2e, 0xa1, 0x66, 0x28, 0xd9, 0x24, 0xb2, 0x76, 0x5b, 0xa2, 0x49, 0x6d, 0x8b, 0xd1, 0x25]] ++
  [[0x72, 0xf8, 0xf6, 0x64, 0x86, 0x68, 0x98, 0x16, 0xd4, 0xa4, 0x5c, 0xcc, 0x5d, 0x65, 0xb6, 0x92],
   [0x6c, 0x70, 0x48, 0x50, 0xfd, 0xed, 0xb9, 0xda, 0x5e, 0x15, 0x46, 0x57, 0xa7, 0x8d, 0x9d, 0x84],
   [0x90, 0xd8, 0xab, 0x00, 0x8c, 0xbc, 0xd3, 0x0a, 0xf7, 0xe4, 0x58, 0x05, 0xb8, 0xb3, 0x45, 0x06],
   [0xd0, 0x2c, 0x1e, 0x8f, 0xca, 0x3f, 0x0f, 0x02, 0xc1, 0xaf, 0xbd, 0x03, 0x01, 0x13, 0x8a, 0x6b]] ++
  [[0x3a, 0x91, 0x11, 0x41, 0x4f, 0x67, 0xdc, 0xea, 0x97, 0xf2, 0xcf, 0xce, 0xf0, 0xb4, 0xe6, 0x73],
   [0x96, 0xac, 0x74, 0x22, 0xe7, 0xad, 0x35, 0x85, 0xe2, 0xf9, 0x37, 0xe8, 0x1c, 0x75, 0xdf, 0x6e],
   [0x47, 0xf1, 0x1a, 0x71, 0x1d, 0x29, 0xc5, 0x89, 0x6f, 0xb7, 0x62, 0x0e, 0xaa, 0x18, 0xbe, 0x1b],
   [0xfc, 0x56, 0x3e, 0x4b, 0xc6, 0xd2, 0x79, 0x20, 0x9a, 0xdb, 0xc0, 0xfe, 0x78, 0xcd, 0x5a, 0xf4]] ++
  [[0x1f, 0xdd, 0xa8, 0x33, 0x88, 0x07, 0xc7, 0x31, 0xb1, 0x12, 0x10, 0x59, 0x27, 0x80, 0xec, 0x5f],
   [0x60, 0x51, 0x7f, 0xa9, 0x19, 0xb5, 0x4a, 0x0d, 0x2d, 0xe5, 0x7a, 0x9f, 0x93, 0xc9, 0x9c, 0xef],
   [0xa0, 0xe0, 0x3b, 0x4d, 0xae, 0x2a, 0xf5, 0xb0, 0xc8, 0xeb, 0xbb, 0x3c, 0x83, 0x53, 0x99, 0x61],
   [0x17, 0x2b, 0x04, 0x7e, 0xba, 0x77, 0xd6, 0x26, 0xe1, 0x69, 0x14, 0x63, 0x55, 0x21, 0x0c, 0x7d]]

/-- A table entry: row = high nibble of `a`, column = low nibble (R142). -/
def lookup (rows : List (List Byte)) (a : Byte) : Byte :=
  (rows.getD (a.toNat / 16) []).getD (a.toNat % 16) 0

/-- `SBOX[a]` (R142). -/
def sbox (a : Byte) : Byte := lookup sboxRows a
/-- `INV_SBOX[a]` (R143). -/
def invSbox (a : Byte) : Byte := lookup invSboxRows a

/-- `RCON[1..7]` (R145); `rcon j` is `RCON[j]`. -/
def rcon (j : Nat) : Byte := [0x01, 0x02, 0x04, 0x08, 0x10, 0x20, 0x40].getD (j - 1) 0

/-! ### Key expansion (R146) -/

/-- Byte `r` of a word, byte 0 the most significant (R147). -/
def wordByte (w : Word) (r : Nat) : Byte := w.extractLsb' (24 - 8 * r) 8

/-- The word with bytes `b0` (most significant) to `b3`. -/
def wordOf (b0 b1 b2 b3 : Byte) : Word := b0 ++ b1 ++ b2 ++ b3

/-- `SubWord(w)` (R146). -/
def subWord (w : Word) : Word :=
  wordOf (sbox (wordByte w 0)) (sbox (wordByte w 1)) (sbox (wordByte w 2)) (sbox (wordByte w 3))

/-- `RotWord(w)` (R146). -/
def rotWord (w : Word) : Word := (w <<< 8) ||| (w >>> 24)

/-- `RK[i]` from the words before it, the latest first (R146). -/
def nextRoundWord (i : Nat) (l : List Word) : Word :=
  let t := l.getD 0 0
  let t' :=
    if i % 8 = 0 then subWord (rotWord t) ^^^ wordOf (rcon (i / 8)) 0 0 0
    else if i % 8 = 4 then subWord t
    else t
  l.getD 7 0 ^^^ t'

/-- `n` more round-key words from index `i`, the latest first (R146). -/
def expandKey : Nat → Nat → List Word → List Word
  | 0, _, l => l
  | n + 1, i, l => expandKey n (i + 1) (nextRoundWord i l :: l)

/-- `KEYEXP(KEY)` (R146): `RK[0..59]`. -/
def keyExp (key : List Byte) : List Word :=
  (expandKey 52 8 ((pieces 4 8 key).map be32Word).reverse).reverse

/-! ### Round transformations (R147 to R150) -/

/-- A key-schedule word as a column: byte `r` is row `r` (R147). -/
def wordColumn (w : Word) : Column := ⟨wordByte w 0, wordByte w 1, wordByte w 2, wordByte w 3⟩

/-- Round key `n`: the words `RK[4n .. 4n+3]` (R146). -/
def roundKey (rk : List Word) (n : Nat) : Block :=
  ⟨wordColumn (rk.getD (4 * n) 0), wordColumn (rk.getD (4 * n + 1) 0),
   wordColumn (rk.getD (4 * n + 2) 0), wordColumn (rk.getD (4 * n + 3) 0)⟩

/-- `AddRoundKey(s, n)` (R147). -/
def addRoundKey (rk : List Word) (n : Nat) (s : Block) : Block := s.xor (roundKey rk n)

/-- A function applied to every byte of a column. -/
def Column.map (f : Byte → Byte) (c : Column) : Column := ⟨f c.r0, f c.r1, f c.r2, f c.r3⟩
/-- A function applied to every byte of a block. -/
def Block.map (f : Byte → Byte) (s : Block) : Block := ⟨s.c0.map f, s.c1.map f, s.c2.map f, s.c3.map f⟩
/-- A function applied to every column of a block. -/
def Block.mapColumns (f : Column → Column) (s : Block) : Block := ⟨f s.c0, f s.c1, f s.c2, f s.c3⟩

/-- `SubBytes(s)` (R148). -/
def subBytes (s : Block) : Block := s.map sbox
/-- `InvSubBytes(s)` (R148). -/
def invSubBytes (s : Block) : Block := s.map invSbox

/-- `ShiftRows(s)` (R149): `new S[r][c] = old S[r][(c + r) mod 4]`. -/
def shiftRows (s : Block) : Block :=
  ⟨⟨s.c0.r0, s.c1.r1, s.c2.r2, s.c3.r3⟩,
   ⟨s.c1.r0, s.c2.r1, s.c3.r2, s.c0.r3⟩,
   ⟨s.c2.r0, s.c3.r1, s.c0.r2, s.c1.r3⟩,
   ⟨s.c3.r0, s.c0.r1, s.c1.r2, s.c2.r3⟩⟩

/-- `InvShiftRows(s)` (R149): `new S[r][(c + r) mod 4] = old S[r][c]`. -/
def invShiftRows (s : Block) : Block :=
  ⟨⟨s.c0.r0, s.c3.r1, s.c2.r2, s.c1.r3⟩,
   ⟨s.c1.r0, s.c0.r1, s.c3.r2, s.c2.r3⟩,
   ⟨s.c2.r0, s.c1.r1, s.c0.r2, s.c3.r3⟩,
   ⟨s.c3.r0, s.c2.r1, s.c1.r2, s.c0.r3⟩⟩

/-- `MixColumns` on one column (R150). -/
def mixColumn (a : Column) : Column :=
  ⟨gmul a.r0 2 ^^^ gmul a.r1 3 ^^^ a.r2 ^^^ a.r3,
   a.r0 ^^^ gmul a.r1 2 ^^^ gmul a.r2 3 ^^^ a.r3,
   a.r0 ^^^ a.r1 ^^^ gmul a.r2 2 ^^^ gmul a.r3 3,
   gmul a.r0 3 ^^^ a.r1 ^^^ a.r2 ^^^ gmul a.r3 2⟩

/-- `InvMixColumns` on one column (R150). -/
def invMixColumn (a : Column) : Column :=
  ⟨gmul a.r0 14 ^^^ gmul a.r1 11 ^^^ gmul a.r2 13 ^^^ gmul a.r3 9,
   gmul a.r0 9 ^^^ gmul a.r1 14 ^^^ gmul a.r2 11 ^^^ gmul a.r3 13,
   gmul a.r0 13 ^^^ gmul a.r1 9 ^^^ gmul a.r2 14 ^^^ gmul a.r3 11,
   gmul a.r0 11 ^^^ gmul a.r1 13 ^^^ gmul a.r2 9 ^^^ gmul a.r3 14⟩

/-- `MixColumns(s)` (R150). -/
def mixColumns (s : Block) : Block := s.mapColumns mixColumn
/-- `InvMixColumns(s)` (R150). -/
def invMixColumns (s : Block) : Block := s.mapColumns invMixColumn

/-! ### Block operations (R151, R152) -/

/-- Round `n` of encryption, `1 <= n <= 13` (R151). -/
def encRound (rk : List Word) (n : Nat) (s : Block) : Block :=
  addRoundKey rk n (mixColumns (shiftRows (subBytes s)))

/-- Rounds 1 to `n` of encryption (R151). -/
def encRounds (rk : List Word) : Nat → Block → Block
  | 0, s => s
  | n + 1, s => encRound rk (n + 1) (encRounds rk n s)

/-- `AES_ENC_BLOCK(RK, x)` (R151); the last round has no `MixColumns`. -/
def aesEncBlock (rk : List Word) (x : Block) : Block :=
  addRoundKey rk 14 (shiftRows (subBytes (encRounds rk 13 (addRoundKey rk 0 x))))

/-- Round `n` of decryption, `13 >= n >= 1` (R152). -/
def decRound (rk : List Word) (n : Nat) (s : Block) : Block :=
  invMixColumns (addRoundKey rk n (invSubBytes (invShiftRows s)))

/-- Rounds `n` down to 1 of decryption (R152). -/
def decRounds (rk : List Word) : Nat → Block → Block
  | 0, s => s
  | n + 1, s => decRounds rk n (decRound rk (n + 1) s)

/-- `AES_DEC_BLOCK(RK, y)` (R152), with the same expanded key as encryption. -/
def aesDecBlock (rk : List Word) (y : Block) : Block :=
  addRoundKey rk 0 (invSubBytes (invShiftRows (decRounds rk 13 (addRoundKey rk 14 y))))

end Sys2Proof.Machine
end

