-- ==== Sys2Proof/Machine/Cbc.lean ====
section
/-! DEFINITION. The CBC unit and the PKCS#7 padding engine (spec/42_cbc_pkcs7.md). -/

namespace Sys2Proof.Machine

/-! ### CBC mode (R170, R171) -/

/-- The loop of `CBC_ENC` (R170): each block under the previous ciphertext block, `chain` being `CHAIN`. -/
def cbcEncBlocks (rk : List Word) : Block → List Block → List Block
  | _, [] => []
  | chain, x :: xs =>
    let y := aesEncBlock rk (x.xor chain)
    y :: cbcEncBlocks rk y xs

/-- The loop of `CBC_DEC` (R171): `CHAIN` takes the ciphertext block. -/
def cbcDecBlocks (rk : List Word) : Block → List Block → List Block
  | _, [] => []
  | chain, y :: ys => (aesDecBlock rk y).xor chain :: cbcDecBlocks rk y ys

/-- `CBC_ENC(KEY, IV, X)` (R170). -/
def cbcEnc (key : List Byte) (iv : Block) (x : List Byte) : List Byte :=
  ofBlocks (cbcEncBlocks (keyExp key) iv (toBlocks x))

/-- `CBC_DEC(KEY, IV, Y)` (R171). -/
def cbcDec (key : List Byte) (iv : Block) (y : List Byte) : List Byte :=
  ofBlocks (cbcDecBlocks (keyExp key) iv (toBlocks y))

/-! ### PKCS#7 (R174, R176) -/

/-- `PadLen` of a record of `r` bytes (R174): `16 - (r mod 16)`, 1 to 16. -/
def padLen (r : Nat) : Nat := 16 - r % 16

/-- `PAD(R)` (R174): `PadLen` bytes, each of value `PadLen`; padding is never omitted. -/
def pad (r : List Byte) : List Byte :=
  r ++ List.replicate (padLen r.length) (BitVec.ofNat 8 (padLen r.length))

/-- `UNPAD(X)` (R176): the unpadded record, or `none` for `PaddingInvalid`. Only the last `PadLen` bytes are examined. R176 gives
it for positive multiples of 16 only. On other lengths, DESIGN CHOICE (log entry 7): the empty string is `none`, its missing
last byte being taken as 0, and where `PadLen` exceeds the length, only the bytes that are there are compared and the result
is empty. -/
def unpad (x : List Byte) : Option (List Byte) :=
  let last := x.getLastD 0
  let p := last.toNat
  if p < 1 ∨ 16 < p then none
  else if (x.drop (x.length - p)).all (fun b => b = last) then some (x.take (x.length - p))
  else none

end Sys2Proof.Machine
end

