-- ==== Sys2Proof/Machine/Sha256.lean ====
section
/-! DEFINITION. The KDF unit's algorithms: the UTF-16LE encoder (spec/40_kdf.md R110) and SHA-256 (R112 to R119). -/

namespace Sys2Proof.Machine

/-! ### UTF-16LE (R110) -/

/-- The code units of one entry as bytes (R110): one unit below 0x10000, else a surrogate pair, high surrogate first.
R110 has scalar values only; on other entries, which step 0 keeps out of a whole command, the same arithmetic is DESIGN CHOICE
(log entry 7). -/
def utf16Entry (cp : CodePoint) : List Byte :=
  let c := cp.toNat
  if c < 0x10000 then le16 c
  else
    let v := c - 0x10000
    le16 (0xD800 + v / 1024) ++ le16 (0xDC00 + v % 1024)

/-- `UTF16LE(P)` (R110): nothing is added before, between or after the entries (R111). -/
def utf16le (p : List CodePoint) : List Byte := p.flatMap utf16Entry

/-! ### Logical functions (R112) -/

/-- `ROTR32(x, n)` for `0 < n < 32`. -/
def rotr32 (x : Word) (n : Nat) : Word := (x >>> n) ||| (x <<< (32 - n))
/-- `SHR32(x, n)`. -/
def shr32 (x : Word) (n : Nat) : Word := x >>> n
/-- `Ch(x,y,z)`. -/
def shaCh (x y z : Word) : Word := (x &&& y) ^^^ (~~~x &&& z)
/-- `Maj(x,y,z)`. -/
def shaMaj (x y z : Word) : Word := (x &&& y) ^^^ (x &&& z) ^^^ (y &&& z)
/-- `BSIG0(x)`. -/
def bsig0 (x : Word) : Word := rotr32 x 2 ^^^ rotr32 x 13 ^^^ rotr32 x 22
/-- `BSIG1(x)`. -/
def bsig1 (x : Word) : Word := rotr32 x 6 ^^^ rotr32 x 11 ^^^ rotr32 x 25
/-- `SSIG0(x)`. -/
def ssig0 (x : Word) : Word := rotr32 x 7 ^^^ rotr32 x 18 ^^^ shr32 x 3
/-- `SSIG1(x)`. -/
def ssig1 (x : Word) : Word := rotr32 x 17 ^^^ rotr32 x 19 ^^^ shr32 x 10

/-! ### Constants -/

/-- `H256_INIT` (R114). -/
def h256Init : ShaWords where
  a := 0x6a09e667
  b := 0xbb67ae85
  c := 0x3c6ef372
  d := 0xa54ff53a
  e := 0x510e527f
  f := 0x9b05688c
  g := 0x1f83d9ab
  h := 0x5be0cd19

/-- The lines of R115's table: line `n` holds `K256[4n .. 4n+3]`. -/
def k256Lines : List (List Word) :=
  [[0x428a2f98, 0x71374491, 0xb5c0fbcf, 0xe9b5dba5],
   [0x3956c25b, 0x59f111f1, 0x923f82a4, 0xab1c5ed5],
   [0xd807aa98, 0x12835b01, 0x243185be, 0x550c7dc3],
   [0x72be5d74, 0x80deb1fe, 0x9bdc06a7, 0xc19bf174]] ++
  [[0xe49b69c1, 0xefbe4786, 0x0fc19dc6, 0x240ca1cc],
   [0x2de92c6f, 0x4a7484aa, 0x5cb0a9dc, 0x76f988da],
   [0x983e5152, 0xa831c66d, 0xb00327c8, 0xbf597fc7],
   [0xc6e00bf3, 0xd5a79147, 0x06ca6351, 0x14292967]] ++
  [[0x27b70a85, 0x2e1b2138, 0x4d2c6dfc, 0x53380d13],
   [0x650a7354, 0x766a0abb, 0x81c2c92e, 0x92722c85],
   [0xa2bfe8a1, 0xa81a664b, 0xc24b8b70, 0xc76c51a3],
   [0xd192e819, 0xd6990624, 0xf40e3585, 0x106aa070]] ++
  [[0x19a4c116, 0x1e376c08, 0x2748774c, 0x34b0bcb5],
   [0x391c0cb3, 0x4ed8aa4a, 0x5b9cca4f, 0x682e6ff3],
   [0x748f82ee, 0x78a5636f, 0x84c87814, 0x8cc70208],
   [0x90befffa, 0xa4506ceb, 0xbef9a3f7, 0xc67178f2]]

/-- `K256[0..63]` (R115), in index order. -/
def k256 : List Word := k256Lines.flatten

/-! ### Padding, schedule, compression -/

/-- The padded message (R113): `M ‖ 0x80 ‖ rep(0x00, k) ‖ be64(8*l)` with `k = (55 - l) mod 64`. -/
def shaPad (m : List Byte) : List Byte :=
  m ++ [0x80] ++ List.replicate ((119 - m.length % 64) % 64) 0x00 ++ beBytes 8 (8 * m.length)

/-- `W[t]` from the words before it, the latest first (R116): `SSIG1(W[t-2]) + W[t-7] + SSIG0(W[t-15]) + W[t-16]`. -/
def shaNextW (l : List Word) : Word :=
  ssig1 (l.getD 1 0) + l.getD 6 0 + ssig0 (l.getD 14 0) + l.getD 15 0

/-- `n` more schedule words put before the words so far, the latest first. -/
def shaExtend : Nat → List Word → List Word
  | 0, l => l
  | n + 1, l => shaExtend n (shaNextW l :: l)

/-- `W[0..63]` of one 64-byte block (R116). -/
def shaSchedule (block : List Byte) : List Word :=
  (shaExtend 48 ((pieces 4 16 block).map be32Word).reverse).reverse

/-- `T1` of R117. -/
def shaT1 (v : ShaWords) (k w : Word) : Word := v.h + bsig1 v.e + shaCh v.e v.f v.g + k + w

/-- `T2` of R117. -/
def shaT2 (v : ShaWords) : Word := bsig0 v.a + shaMaj v.a v.b v.c

/-- One iteration of the compression loop (R117): the words move one place down, `e` and `a` take the sums. -/
def shaRound (v : ShaWords) (k w : Word) : ShaWords :=
  ⟨shaT1 v k w + shaT2 v, v.a, v.b, v.c, v.d + shaT1 v k w, v.e, v.f, v.g⟩

/-- The compression loop over the constants and the schedule (R117). -/
def shaRounds : ShaWords → List Word → List Word → ShaWords
  | v, k :: ks, w :: ws => shaRounds (shaRound v k w) ks ws
  | v, _, _ => v

/-- Word-by-word sum modulo 2^32. -/
def ShaWords.add (x y : ShaWords) : ShaWords :=
  ⟨x.a + y.a, x.b + y.b, x.c + y.c, x.d + y.d, x.e + y.e, x.f + y.f, x.g + y.g, x.h + y.h⟩

/-- One block: the schedule, the working variables after the loop, and the new chaining value (R116, R117). -/
def shaBlock (r : ShaRegs) (block : List Byte) : ShaRegs :=
  let w := shaSchedule block
  let v := shaRounds r.h k256 w
  { h := r.h.add v, w := toVector 64 0 w, v := v }

/-- The unit before the first block: `H <- H256_INIT` (R118). -/
def shaInit : ShaRegs := ⟨h256Init, Vector.replicate 64 0, ShaWords.zero⟩

/-- The unit after all blocks of the padded message, in order (R118). -/
def shaRun (m : List Byte) : ShaRegs :=
  (pieces 64 ((shaPad m).length / 64) (shaPad m)).foldl shaBlock shaInit

/-- The digest: `be32(H[0]) ‖ ... ‖ be32(H[7])` (R119). -/
def shaDigest (h : ShaWords) : List Byte :=
  wordBytes h.a ++ wordBytes h.b ++ wordBytes h.c ++ wordBytes h.d ++
    wordBytes h.e ++ wordBytes h.f ++ wordBytes h.g ++ wordBytes h.h

/-- `SHA256(M)` (R119). -/
def sha256 (m : List Byte) : List Byte := shaDigest (shaRun m).h

end Sys2Proof.Machine
end

