-- ==== Sys2Proof/Machine/Kdf.lean ====
section
/-! DEFINITION. Key derivation and the command `DERIVE_KEY` (spec/40_kdf.md R120 to R124). -/

namespace Sys2Proof.Machine

/-- `derive_key(P)` (R120): `SHA256(UTF16LE(P))`, digest byte `i` being key byte `i` (R121). -/
def deriveKey (p : List CodePoint) : List Byte := sha256 (utf16le p)

/-- The step `KEY <- derive_key(P)` (R120, R195, R214): `MSG`, the SHA-256 registers and `KEY` are written; then `STEP <- n`.
An encoding longer than R50's capacity of `MSG`, which no whole command has, is held whole: DESIGN CHOICE (log entry 7). -/
def State.deriveKeyStep (s : State) (n : StepNo) : State :=
  let msg := utf16le s.work.ops.passphrase
  let sha := shaRun msg
  s.setWork { s.work with
    msg := Memory.ofList msg
    sha := sha
    key := toVector 32 0 (shaDigest sha.h) } n

/-- `DERIVE_KEY` step 0 (R122, R242): the command word is legal in this build (D10), then the passphrase operand (R243). -/
def kdfStep0 (s : State) : Ctl :=
  if s.build.hasDeriveKey = false then .raise s .illegalCommand
  else if s.passPresentable s.work.ops = false then .raise s .badOperand
  else .more (s.goTo .s1)

/-- `DERIVE_KEY` step 1 (R122): `KEY <- derive_key(P); done(KEY)`. Step 0 has checked that the build has the command; a `BUSY` state
at step 1 in a build without it is not checked again and completes: DESIGN CHOICE (log entry 7). -/
def kdfStep1 (s : State) : Ctl :=
  let t := s.deriveKeyStep .s1
  .ended (t.complete t.work.key.toList)

/-- The steps of `DERIVE_KEY` in order (R122, R28). -/
def kdfRun (s : State) : Ctl := (kdfStep0 s).andThen kdfStep1

/-- The command `DERIVE_KEY` (R122), one atomic step (R4). -/
def execDeriveKey (s : State) : Host.Outcome State Fault Refusal := .next (kdfRun s.start).state

end Sys2Proof.Machine
end

