-- ==== Sys2Proof/Machine/Encoder.lean ====
section
/-! DEFINITION. The envelope framer: the command `ENCRYPT` (spec/43_encoder.md R190 to R200), one definition per step. -/

namespace Sys2Proof.Machine

/-- The PlaintextRecord of a plaintext (R192, R84, R85): Magic, AuthLen 0, PlaintextLength, the plaintext as it is. -/
def plainRecord (t : List Byte) : List Byte :=
  le32 magicNumber.toNat ++ le16 0 ++ le16 t.length ++ t

/-- The envelope (R197, R83): Version 2, three reserved zeros, the IV, the encrypted body. -/
def envelope (iv : Block) (body : List Byte) : List Byte :=
  [versionV2, 0x00, 0x00, 0x00] ++ iv.bytes ++ body

/-- The padded record held in `REC`, `REC_LEN` its length; then `STEP <- n`. A length from 2^32 on, which no whole command
reaches, is held modulo 2^32, and a record longer than R50's capacity of `REC`, which no whole command builds, is held whole:
DESIGN CHOICE (log entry 7). -/
def State.setRecord (s : State) (r : List Byte) (n : StepNo) : State :=
  s.setWork { s.work with recBuf := Memory.ofList r, recLen := BitVec.ofNat 32 r.length } n

/-- Step 0 (R190, R242): the passphrase operand. -/
def encStep0 (s : State) : Ctl :=
  if s.passPresentable s.work.ops = false then .raise s .badOperand else .more (s.goTo .s1)

/-- Step 1 (R191): `IN_LEN > 65535` is `InputTooLarge`; nothing drawn, `IN` not read. -/
def encStep1 (s : State) : Ctl :=
  if s.work.ops.inLen.toNat > ptMax then .raise s .inputTooLarge else .more (s.goTo .s2)

/-- Step 2 (R192): build the PlaintextRecord. Step 1 keeps `IN_LEN` at most 65535 in a whole command; in a `BUSY` state with a
longer input PlaintextLength is `IN_LEN` modulo 65536: DESIGN CHOICE (log entry 7). -/
def encStep2 (s : State) : Ctl := .more (s.setRecord (plainRecord s.work.ops.input) .s3)

/-- Step 3 (R193): pad `REC[0, REC_LEN)`. After step 2 of a whole command `REC_LEN` is `8 + IN_LEN`; in a `BUSY` state where it is
not (a host write of `IN_LEN` after step 2), `r` and the new `REC_LEN` are taken from the old `REC_LEN`, and `IN_LEN` is not read:
DESIGN CHOICE (log entry 7). -/
def encStep3 (s : State) : Ctl := .more (s.setRecord (pad s.record) .s4)

/-- Step 4 (R194): `IVR <- Draw16()`, the command's only draw. -/
def encStep4 (s : State) : Ctl :=
  .more (s.afterDraw.setWork { s.work with ivr := s.nextDraw } .s5)

/-- Step 5 (R195): `KEY <- derive_key(P)`. -/
def encStep5 (s : State) : Ctl := .more (s.deriveKeyStep .s6)

/-- Step 6 (R196): `BODY <- CBC_ENC(KEY, IVR, REC[0, REC_LEN))`; `RK`, `S` and `CHAIN` are left as the loop of R170 leaves
them. In a `BUSY` state where `REC` is not whole blocks, `BODY` is shorter than `REC_LEN`: DESIGN CHOICE (log entry 7). -/
def encStep6 (s : State) : Ctl :=
  let rk := keyExp s.work.key.toList
  let ys := cbcEncBlocks rk s.work.ivr (toBlocks s.record)
  .more (s.setWork { s.work with
    rk := toVector 60 0 rk
    chain := ys.getLastD s.work.ivr
    aesState := ys.getLastD s.work.aesState
    body := ofBlocks ys } .s7)

/-- Step 7 (R197): emit the envelope. In a whole command `BODY` has `REC_LEN` bytes, at most 65552, here. In a `BUSY` state where
its length is not `REC_LEN`, `OUT_LEN` is 20 and the length of `BODY` (R190), and `REC_LEN` is not read; where it has more than
65552 bytes, the output is published whole, past index 65571 of `OUT`: DESIGN CHOICE for both (log entry 7). -/
def encStep7 (s : State) : Ctl := .ended (s.complete (envelope s.work.ivr s.work.body))

/-- The steps of `ENCRYPT` in order (R190, R28). -/
def encRun (s : State) : Ctl :=
  (encStep0 s).andThen fun s => (encStep1 s).andThen fun s => (encStep2 s).andThen fun s =>
  (encStep3 s).andThen fun s => (encStep4 s).andThen fun s => (encStep5 s).andThen fun s =>
  (encStep6 s).andThen encStep7

/-- The command `ENCRYPT` (R190), one atomic step (R4). -/
def execEncrypt (s : State) : Host.Outcome State Fault Refusal := .next (encRun s.start).state

end Sys2Proof.Machine
end

