-- ==== Sys2Proof/Machine/Decoder.lean ====
section
/-! DEFINITION. The envelope validator: the command `DECRYPT` and the three discriminators it reads (spec/44_decoder.md R210 to
R226; spec/30_encoding.md R87, R89, R97), one definition per step. -/

namespace Sys2Proof.Machine

/-- The legal envelope lengths (R211, 30_encoding R90): 36, 52, 68, ... -/
def envelopeLenOk (l : Nat) : Bool := envMin ≤ l && (l - envHdr) % 16 = 0

/-- Step 0 (R210, R242): the passphrase operand, then `IN_LEN <= IN_CAP`. -/
def decStep0 (s : State) : Ctl :=
  if s.passPresentable s.work.ops = false then .raise s .badOperand
  else if s.inPresentable s.work.ops = false then .raise s .badOperand
  else .more (s.goTo .s1)

/-- Step 1 (R211): the envelope length; reads `IN_LEN` only. -/
def decStep1 (s : State) : Ctl :=
  if envelopeLenOk s.work.ops.inLen.toNat = false then .raise s .malformedEnvelope else .more (s.goTo .s2)

/-- Step 2 (R212): the Version byte `IN[0]`, before anything is decrypted. -/
def decStep2 (s : State) : Ctl :=
  Ctl.readIn s 0 1 fun v =>
    match decode .version v with
    | .ok _ => .more (s.goTo .s3)
    | .rejected _ => .raise s .unsupportedVersion

/-- Step 3 (R213): `IVR <- IN[4,20); BODY <- IN[20, L)`. The Reserved bytes are not read (R222). -/
def decStep3 (s : State) : Ctl :=
  Ctl.readIn s 4 16 fun iv => Ctl.readIn s envHdr (s.work.ops.inLen.toNat - envHdr) fun body =>
    .more (s.setWork { s.work with ivr := Block.ofBytes iv, body := body } .s4)

/-- Step 4 (R214): `KEY <- derive_key(P)`. -/
def decStep4 (s : State) : Ctl := .more (s.deriveKeyStep .s5)

/-- Step 5 (R215): `REC <- CBC_DEC(KEY, IVR, BODY); REC_LEN <- L - 20`; `RK`, `S` and `CHAIN` are left as the loop of R171
leaves them. Never fails (42_cbc_pkcs7 R172). `BODY` has `L - 20` bytes after step 3; in a `BUSY` state where it has not (a host
write of `IN_LEN` after step 3), `REC_LEN` is the length of what `BODY` decrypts to, and `IN_LEN` is not read. In a `BUSY` state
whose `BODY` is longer than R50's capacity of `REC`, `REC` takes it whole and `REC_LEN` is its length modulo 2^32: DESIGN CHOICE for both (log entry 7). -/
def decStep5 (s : State) : Ctl :=
  let rk := keyExp s.work.key.toList
  let ys := toBlocks s.work.body
  let xs := ofBlocks (cbcDecBlocks rk s.work.ivr ys)
  .more (s.setWork { s.work with
    rk := toVector 60 0 rk
    chain := ys.getLastD s.work.ivr
    aesState := (ys.map (aesDecBlock rk)).getLastD s.work.aesState
    recBuf := Memory.ofList xs
    recLen := BitVec.ofNat 32 xs.length } .s6)

/-- Step 6 (R216): check and strip the padding. In a whole command `REC` holds whole blocks here. In a `BUSY` state where it does
not, the answer is that of `unpad` on the bytes there are, and no bounded read is made: DESIGN CHOICE (log entry 7). -/
def decStep6 (s : State) : Ctl :=
  match unpad s.record with
  | none => .raise s .paddingInvalid
  | some r => .more (s.setRecord r .s6b)

/-- Step 6b (R217): the record header is present. -/
def decStep6b (s : State) : Ctl :=
  if s.work.recLen.toNat < recHdr then .raise s .malformedEnvelope else .more (s.goTo .s7)

/-- Step 7 (R218): the Magic, `LE32(REC, 0)`. -/
def decStep7 (s : State) : Ctl :=
  Ctl.readRec s 0 4 fun v =>
    match decode .magic v with
    | .ok _ => .more (s.goTo .s8)
    | .rejected _ => .raise s .magicMismatch

/-- Step 8 (R219): the AuthLen, `LE16(REC, 4)`. -/
def decStep8 (s : State) : Ctl :=
  Ctl.readRec s 4 2 fun v =>
    match decode .authLen v with
    | .ok _ => .more (s.goTo .s9)
    | .rejected _ => .raise s .authenticatorUnsupported

/-- Step 9 (R220): `n <- LE16(REC, 6)`; `8 + n <= REC_LEN`, on natural numbers (R10). -/
def decStep9 (s : State) : Ctl :=
  Ctl.readRec s 6 2 fun v =>
    if recHdr + leNum v > s.work.recLen.toNat then .raise s .malformedEnvelope else .more (s.goTo .s10)

/-- Step 10 (R221): `done(REC[8, 8+n))`. The `n` of step 9 is no register (R27); it is read from `REC` again: DESIGN CHOICE (log
entry 7). -/
def decStep10 (s : State) : Ctl :=
  Ctl.readRec s 6 2 fun v => Ctl.readRec s recHdr (leNum v) fun t => .ended (s.complete t)

/-- The steps of `DECRYPT` in order (R210, R28). -/
def decRun (s : State) : Ctl :=
  (decStep0 s).andThen fun s => (decStep1 s).andThen fun s => (decStep2 s).andThen fun s =>
  (decStep3 s).andThen fun s => (decStep4 s).andThen fun s => (decStep5 s).andThen fun s =>
  (decStep6 s).andThen fun s => (decStep6b s).andThen fun s => (decStep7 s).andThen fun s =>
  (decStep8 s).andThen fun s => (decStep9 s).andThen decStep10

/-- The command `DECRYPT` (R210), one atomic step (R4). -/
def execDecrypt (s : State) : Host.Outcome State Fault Refusal := .next (decRun s.start).state

/-- The row `ENV.VERSION_V2` (R97, R212): step 2 of `DECRYPT` on the bytes in `IN` (log entry 6). -/
def execEnvVersionV2 (s : State) : Host.Outcome State Fault Refusal := .next (decStep2 s).state

/-- The row `REC.MAGIC` (R97, R218): step 7 of `DECRYPT` on the record in `REC` (log entry 6). -/
def execRecMagic (s : State) : Host.Outcome State Fault Refusal := .next (decStep7 s).state

/-- The row `REC.AUTHLEN_NONE` (R97, R219): step 8 of `DECRYPT` on the record in `REC` (log entry 6). -/
def execRecAuthLenNone (s : State) : Host.Outcome State Fault Refusal := .next (decStep8 s).state

end Sys2Proof.Machine
end

