-- ==== Sys2Proof/Machine/Dispatch.lean ====
section
/-! DEFINITION. The one match from an instruction to its meaning. -/

namespace Sys2Proof.Machine

def exec (i : Instr) (s : State) : Host.Outcome State Fault Refusal :=
  match i with
  | .deriveKey => Sys2Proof.Machine.execDeriveKey s
  | .encrypt => Sys2Proof.Machine.execEncrypt s
  | .decrypt => Sys2Proof.Machine.execDecrypt s
  | .envVersionV2 => Sys2Proof.Machine.execEnvVersionV2 s
  | .recMagic => Sys2Proof.Machine.execRecMagic s
  | .recAuthLenNone => Sys2Proof.Machine.execRecAuthLenNone s

end Sys2Proof.Machine
end

