-- ==== Sys2Proof/Machine/Fetch.lean ====
section
/-! DEFINITION. Whose move is next and what it is: the host's accesses (spec/10_state.md R20, R21, R23, R26, R33; reset R34
and spec/70_reset_and_hazards.md R270, R277), and the sequencer of a command in progress (R28). -/

namespace Sys2Proof.Machine

/-- What the next move is. -/
inductive Fetched where
  /-- The instruction decoded, and the state in which it runs. -/
  | run (i : Instr) (s : State)
  /-- No instruction: the state after the move. -/
  | settle (s : State)
  | fault (f : Fault)
deriving DecidableEq, Repr

/-! ### The host's moves -/

/-- The host's access at the head of the queue is taken; nothing is answered yet. -/
def State.hostTook (s : State) (rest : List HostAccess) : State := { s with hostQueue := rest, answer := none }

/-- The host reads `v`. Reading changes nothing else (R56). -/
def State.answered (s : State) (v : Word) : State := { s with answer := some v }

/-- A host access that U2 or U3 leaves open used up a free value. -/
def State.freeRead (s : State) : State := { s with freeReads := s.freeReads + 1 }

/-- The reset pin (R34, R270): all state of the block at its reset value, a command in progress abandoned; the entropy source
is not touched, and the host goes on with its next access (log entry 12). -/
def State.assertReset (s : State) : State :=
  { State.resetOf s.build with
    entropy := s.entropy
    hostQueue := s.hostQueue
    freeReads := s.freeReads }

/-- A host read of a register (R21, R33): `CMD` reads 0. -/
def State.readReg (s : State) (r : HostReg) : Word :=
  match r with
  | .cmd => 0
  | .status => s.statusWord
  | .passLen => s.passLen
  | .inLen => s.inLen
  | .outLen => s.outLen

/-- A host read of a buffer entry (R26), zero-extended (R65). -/
def State.readBuf (s : State) (b : HostBuf) (i : Nat) : Word :=
  match b with
  | .pass => (s.pass.read i).setWidth 32
  | .inp => (s.inBuf.read i).setWidth 32
  | .out => (s.out.read i).setWidth 32

/-- `CMD` takes the word written (R23). -/
def State.setCmd (s : State) (w : Word) : State := { s with cmd := w }
/-- `PASS_LEN` takes the word written (R25). -/
def State.setPassLen (s : State) (v : Word) : State := { s with passLen := v }
/-- `IN_LEN` takes the word written (R25). -/
def State.setInLen (s : State) (v : Word) : State := { s with inLen := v }
/-- `PASS[i]` takes the entry written (R26). -/
def State.setPass (s : State) (i : Nat) (v : CodePoint) : State := { s with pass := s.pass.write i v }
/-- `IN[i]` takes the byte written (R26). -/
def State.setIn (s : State) (i : Nat) (v : Byte) : State := { s with inBuf := s.inBuf.write i v }

/-- The operands of the command in progress become `o`. -/
def State.setOps (s : State) (o : Sampled) : State := { s with work := { s.work with ops := o } }

/-- What a write of `PASS_LEN` while a command runs does to it (U2): its length is any value. -/
def State.disturbPassLen (s : State) : State :=
  (s.setOps { s.work.ops with passLen := Config.freeOperand s.freeReads }).freeRead
/-- What a write of `IN_LEN` while a command runs does to it (U2): its length is any value. -/
def State.disturbInLen (s : State) : State :=
  (s.setOps { s.work.ops with inLen := Config.freeOperand s.freeReads }).freeRead
/-- What a write of `PASS[i]` while a command runs does to it (U2): its entry is any value. -/
def State.disturbPass (s : State) (i : Nat) : State :=
  (s.setOps { s.work.ops with
    pass := s.work.ops.pass.write i ((Config.freeOperand s.freeReads).extractLsb' 0 21) }).freeRead
/-- What a write of `IN[i]` while a command runs does to it (U2): its byte is any value. -/
def State.disturbIn (s : State) (i : Nat) : State :=
  (s.setOps { s.work.ops with
    inBuf := s.work.ops.inBuf.write i ((Config.freeOperand s.freeReads).extractLsb' 0 8) }).freeRead

/-- A write of `CMD` in `IDLE` or `DONE` starts the command (R23); a word that is none of the three completes at once with
`IllegalCommand` (R244). -/
def startCommand (s : State) (w : Word) : Fetched :=
  match decodeCommand w with
  | .ok i => .run i (s.setCmd w)
  | .rejected _ => .settle ((s.setCmd w).raise .illegalCommand)

/-- A host access while no command runs (R21, R26, R33): writes of `STATUS`, `OUT_LEN` and `OUT` are ignored. -/
def hostAccess (a : HostAccess) (s : State) : Fetched :=
  match a with
  | .writeReg .cmd w => startCommand s w
  | .writeReg .status _ => .settle s
  | .writeReg .passLen v => .settle (s.setPassLen v)
  | .writeReg .inLen v => .settle (s.setInLen v)
  | .writeReg .outLen _ => .settle s
  | .readReg r => .settle (s.answered (s.readReg r))
  | .writePass i v => if s.hasEntry .pass i then .settle (s.setPass i v) else .fault (.noSuchEntry .pass i)
  | .writeIn i v => if s.hasEntry .inp i then .settle (s.setIn i v) else .fault (.noSuchEntry .inp i)
  | .writeOut i _ => if s.hasEntry .out i then .settle s else .fault (.noSuchEntry .out i)
  | .readBuf b i => if s.hasEntry b i then .settle (s.answered (s.readBuf b i)) else .fault (.noSuchEntry b i)
  | .reset => .settle s.assertReset

/-- A host access while a command runs, which the model's own runs never show (D1): a write of `CMD` is ignored (R23, R277); a
write of an operand reaches the register or buffer (R21, R26) and gives the command in progress any value for it (U2, log
entries 8 and 14); `STATUS.ST` reads `BUSY`, and `STATUS.ERR`, `OUT_LEN` and `OUT` read free values (U3); every other read and
ignored write is as in `hostAccess`. -/
def busyAccess (a : HostAccess) (s : State) : Fetched :=
  match a with
  | .writeReg .cmd _ => .settle s
  | .writeReg .status _ => .settle s
  | .writeReg .passLen v => .settle (s.disturbPassLen.setPassLen v)
  | .writeReg .inLen v => .settle (s.disturbInLen.setInLen v)
  | .writeReg .outLen _ => .settle s
  | .readReg .status =>
    .settle (s.freeRead.answered (statusOf s.st.code ((Config.freeRead s.freeReads).extractLsb' 0 4)))
  | .readReg .outLen => .settle (s.freeRead.answered (Config.freeRead s.freeReads))
  | .readReg .cmd => .settle (s.answered (s.readReg .cmd))
  | .readReg .passLen => .settle (s.answered (s.readReg .passLen))
  | .readReg .inLen => .settle (s.answered (s.readReg .inLen))
  | .writePass i v =>
    if s.hasEntry .pass i then .settle ((s.disturbPass i).setPass i v) else .fault (.noSuchEntry .pass i)
  | .writeIn i v =>
    if s.hasEntry .inp i then .settle ((s.disturbIn i).setIn i v) else .fault (.noSuchEntry .inp i)
  | .writeOut i _ => if s.hasEntry .out i then .settle s else .fault (.noSuchEntry .out i)
  | .readBuf .out i =>
    if s.hasEntry .out i then
      .settle (s.freeRead.answered (((Config.freeRead s.freeReads).extractLsb' 0 8).setWidth 32))
    else .fault (.noSuchEntry .out i)
  | .readBuf .pass i =>
    if s.hasEntry .pass i then .settle (s.answered (s.readBuf .pass i)) else .fault (.noSuchEntry .pass i)
  | .readBuf .inp i =>
    if s.hasEntry .inp i then .settle (s.answered (s.readBuf .inp i)) else .fault (.noSuchEntry .inp i)
  | .reset => .settle s.assertReset

/-! ### The sequencer -/

/-- Step `n` of `DERIVE_KEY` (R122). -/
def kdfStep (n : StepNo) (s : State) : Option Ctl :=
  match n with
  | .s0 => some (kdfStep0 s)
  | .s1 => some (kdfStep1 s)
  | _ => none

/-- Step `n` of `ENCRYPT` (R190). -/
def encStep (n : StepNo) (s : State) : Option Ctl :=
  match n with
  | .s0 => some (encStep0 s)
  | .s1 => some (encStep1 s)
  | .s2 => some (encStep2 s)
  | .s3 => some (encStep3 s)
  | .s4 => some (encStep4 s)
  | .s5 => some (encStep5 s)
  | .s6 => some (encStep6 s)
  | .s7 => some (encStep7 s)
  | _ => none

/-- Step `n` of `DECRYPT` (R210). -/
def decStep (n : StepNo) (s : State) : Ctl :=
  match n with
  | .s0 => decStep0 s
  | .s1 => decStep1 s
  | .s2 => decStep2 s
  | .s3 => decStep3 s
  | .s4 => decStep4 s
  | .s5 => decStep5 s
  | .s6 => decStep6 s
  | .s6b => decStep6b s
  | .s7 => decStep7 s
  | .s8 => decStep8 s
  | .s9 => decStep9 s
  | .s10 => decStep10 s

/-- The discriminator that step `STEP` of `DECRYPT` decodes: its format and its bytes (R97, R212, R218, R219). -/
def State.discriminator (s : State) : Option (Format × List Byte) :=
  match s.stepNo with
  | .s2 => some (.version, s.work.ops.inBuf.readRange 0 1)
  | .s7 => some (.magic, s.work.recBuf.readRange 0 4)
  | .s8 => some (.authLen, s.work.recBuf.readRange 4 2)
  | _ => none

/-- The state after a numbered step; a step the command does not have is a fault. -/
def settleStep (s : State) (c : Option Ctl) : Fetched :=
  match c with
  | some c => .settle c.state
  | none => .fault (.noSuchStep s.stepNo)

/-- The sequencer of a command in progress: the numbered step `STEP` of the command in `CMD` (R28). A discriminator of the
opcode table is decoded and run as an instruction. No run from reset is between two numbered steps (R4, D1; log entry 7). In a
build without `DERIVE_KEY` the word 1 is no command (D10), and only step 0 of it says so: a `BUSY` state that holds it at `STEP` 1
runs that step, and at any later `STEP` is a fault: DESIGN CHOICE (log entry 7). -/
def sequence (s : State) : Fetched :=
  match decodeCommand s.cmd with
  | .ok .deriveKey => settleStep s (kdfStep s.stepNo s)
  | .ok .encrypt => settleStep s (encStep s.stepNo s)
  | .ok .decrypt =>
    match s.discriminator with
    | none => .settle (decStep s.stepNo s).state
    | some (f, bs) =>
      match decode f bs with
      | .ok (i, _) => .run i s
      | .rejected _ => .settle (decStep s.stepNo s).state
  | .ok _ => .fault (.noSuchStep s.stepNo)
  | .rejected _ => .settle (s.raise .illegalCommand)

/-! ### The next move -/

/-- The next move: the host's access if it makes one; else the sequencer's, if a command is in progress; else nothing happens
(R34: the block does nothing until the host writes `CMD`). While a command is in progress the spec gives no order of the host's
accesses and the numbered steps (D1, R277); every access still to come is taken before the next numbered step: DESIGN CHOICE
(log entry 1). -/
def fetch (s : State) : Fetched :=
  match s.hostQueue with
  | [] => if s.st = .busy then sequence s else .settle s
  | a :: rest =>
    if s.st = .busy then busyAccess a (s.hostTook rest) else hostAccess a (s.hostTook rest)

/-- `IN_LEN` as the fetch of a Version byte needs it: at least one valid byte; the smallest legal envelope if there is none. -/
def fetchInLen (n : Word) : Word := if n = 0 then BitVec.ofNat 32 envMin else n

/-- `REC_LEN` as the fetch of a record field needs it: at least the record header. -/
def fetchRecLen (n : Word) : Word := if n.toNat < recHdr then BitVec.ofNat 32 recHdr else n

/-- `DECRYPT` in progress at step `n`, its operands sampled, the host about to make no access. -/
def State.atDecryptStep (s : State) (n : StepNo) : State := { s.start with cmd := 3, stepNo := n, hostQueue := [] }

/-- The state whose next step runs the table word `w` of `nbits` bits (log entry 10). A command word is what the host is about
to write to `CMD` (R23); a discriminator lies where its step of `DECRYPT` reads it: `IN[0]` (sampled), `REC[0,4)`, `REC[4,6)`. -/
def State.placeTableWord (s : State) (nbits w : Nat) : State :=
  match tableFormat nbits w with
  | none => s
  | some .commandWord =>
    { s with
      st := if s.st = .busy then .idle else s.st
      hostQueue := .writeReg .cmd (BitVec.ofNat 32 w) :: s.hostQueue }
  | some .version =>
    { s with
      inBuf := s.inBuf.writeRange 0 (leBytes 1 w)
      inLen := fetchInLen s.inLen : State }.atDecryptStep .s2
  | some .magic =>
    { s with
      work := { s.work with
        recBuf := s.work.recBuf.writeRange 0 (leBytes 4 w)
        recLen := fetchRecLen s.work.recLen } : State }.atDecryptStep .s7
  | some .authLen =>
    { s with
      work := { s.work with
        recBuf := s.work.recBuf.writeRange 4 (leBytes 2 w)
        recLen := fetchRecLen s.work.recLen } : State }.atDecryptStep .s8

end Sys2Proof.Machine
end

