-- ==== Sys2Proof/Machine/Step.lean ====
section
/-! DEFINITION. One step of the machine: one access of the host with the command it starts, run to completion (spec/00_scope.md
R4), or one numbered step of a command in progress (spec/10_state.md R28). -/

namespace Sys2Proof.Machine

/-- One step. -/
def step (s : State) : Host.Outcome State Fault Refusal :=
  match fetch s with
  | .run i t => exec i t
  | .settle t => .next t
  | .fault f => .fault f

/-- `s` with the table word `w` of `nbits` bits placed where `step` takes its next instruction from (log entry 10). -/
def State.withFetchWord (s : State) (nbits w : Nat) : State := s.placeTableWord nbits w

end Sys2Proof.Machine
end

