-- ==== Sys2Proof/Safety.lean ====
section
/-! DEFINITION. The terms in which claims are stated: the source's two functions over plain byte lists
(spec/43_encoder.md R190, spec/44_decoder.md R210), the invariant of the machine, and what a safe step is. -/

namespace Sys2Proof

/-- The three commands (R81), as against the discriminators. -/
def Instr.isCommand : Instr → Bool
  | .deriveKey => true
  | .encrypt => true
  | .decrypt => true
  | .envVersionV2 => false
  | .recMagic => false
  | .recAuthLenNone => false

end Sys2Proof

namespace Sys2Proof.Machine

/-! ### The source's functions, with no state and no steps -/

/-- What the source's functions return: bytes, or a named error. -/
inductive Result where
  | bytes (out : List Byte)
  | error (e : ErrCode)
deriving DecidableEq, Repr

/-- `encrypt(P, T)` with the draw `iv` (R190, R191, R197). -/
def sourceEncrypt (p : List CodePoint) (t : List Byte) (iv : Block) : Result :=
  if t.length > 65535 then .error .inputTooLarge
  else .bytes (envelope iv (cbcEnc (deriveKey p) iv (pad (plainRecord t))))

/-- The checks on the unpadded record and the plaintext (R217 to R221). -/
def sourceUnwrap (r : List Byte) : Result :=
  if r.length < 8 then .error .malformedEnvelope
  else if r.take 4 ≠ [0x0D, 0xF0, 0xAD, 0xBA] then .error .magicMismatch
  else if (r.drop 4).take 2 ≠ [0x00, 0x00] then .error .authenticatorUnsupported
  else if 8 + leNum ((r.drop 6).take 2) > r.length then .error .malformedEnvelope
  else .bytes ((r.drop 8).take (leNum ((r.drop 6).take 2)))

/-- What `DECRYPT` recovers of an envelope before any check of its padding (R213 to R215). -/
def sourceBuffer (p : List CodePoint) (e : List Byte) : List Byte :=
  cbcDec (deriveKey p) (Block.ofBytes (e.drop 4)) (e.drop 20)

/-- `decrypt(P, E)` (R210 to R221). -/
def sourceDecrypt (p : List CodePoint) (e : List Byte) : Result :=
  if e.length < 36 ∨ (e.length - 20) % 16 ≠ 0 then .error .malformedEnvelope
  else if e.head? ≠ some 0x02 then .error .unsupportedVersion
  else match unpad (sourceBuffer p e) with
    | none => .error .paddingInvalid
    | some r => sourceUnwrap r

/-- A command's completion with a result (R247, R248). -/
def State.settle (s : State) : Result → State
  | .bytes out => s.complete out
  | .error e => s.raise e

/-! ### The invariant -/

/-- Every buffer is in canonical form. -/
abbrev State.MemoriesWf (s : State) : Prop :=
  s.pass.wf ∧ s.inBuf.wf ∧ s.out.wf ∧ s.work.msg.wf ∧ s.work.recBuf.wf ∧ s.work.ops.pass.wf ∧ s.work.ops.inBuf.wf

/-- What holds of the machine between two commands. -/
structure State.Inv (s : State) : Prop where
  /-- No command is in progress: commands are atomic (R4, R58). -/
  notBusy : s.st ≠ .busy
  /-- The working registers are zero (R29, R34). -/
  workZero : s.work = Work.zero
  /-- The buffers are in canonical form. -/
  memories : s.MemoriesWf
  /-- `OUT_LEN` is at most the capacity of `OUT` (R197). -/
  outLenLe : s.outLen.toNat ≤ outCap
  /-- `OUT` at index `OUT_LEN` and above is zero (R26). -/
  outTail : ∀ c ∈ s.out, c.1 < s.outLen.toNat
  /-- `PASS` and `IN` hold no entry that does not exist (R50). -/
  passIn : ∀ c ∈ s.pass, s.hasEntry .pass c.1 = true
  inIn : ∀ c ∈ s.inBuf, s.hasEntry .inp c.1 = true
  /-- `CipherInitError` is never reported (41_aes256 R154). -/
  noCipherInit : s.err ≠ .cipherInitError
  /-- An error has no output (R248). -/
  errorEmpty : s.err ≠ .ok → s.outLen = 0
  /-- Before the first command nothing is reported (R34). -/
  idleClean : s.st = .idle → s.err = .ok ∧ s.outLen = 0

/-- A safe step answers a next state: neither a fault nor a refusal. -/
def State.Safe (s : State) : Prop := ∃ t, step s = .next t

/-- The entry a host access names exists (R50). -/
def HostAccess.entryExists (a : HostAccess) (s : State) : Bool :=
  match a with
  | .writePass i _ => s.hasEntry .pass i
  | .writeIn i _ => s.hasEntry .inp i
  | .writeOut i _ => s.hasEntry .out i
  | .readBuf b i => s.hasEntry b i
  | .writeReg _ _ => true
  | .readReg _ => true
  | .reset => true

/-! ### Terms of the claims about `DECRYPT` and the steps -/

/-- The operands of `DECRYPT` pass steps 0 to 2 (R242, R211, R212). -/
structure State.DecryptReady (s : State) : Prop where
  passOk : s.passOperandOk = true
  inOk : s.inOperandOk = true
  longEnough : 36 ≤ s.inLen.toNat
  wholeBlocks : (s.inLen.toNat - 20) % 16 = 0
  version : s.inBuf.read 0 = 0x02

/-- The unpadded record of `DECRYPT`'s operands, or `none` where the padding is invalid (R215, R216). -/
def State.unpadded (s : State) : Option (List Byte) := unpad (sourceBuffer s.passphrase s.input)

/-- The place of a numbered step in the order of the steps (R28): 6b lies between 6 and 7. -/
def StepNo.place : StepNo → Nat
  | .s0 => 0
  | .s1 => 1
  | .s2 => 2
  | .s3 => 3
  | .s4 => 4
  | .s5 => 5
  | .s6 => 6
  | .s6b => 7
  | .s7 => 8
  | .s8 => 9
  | .s9 => 10
  | .s10 => 11

end Sys2Proof.Machine
end

