-- ==== Sys2Proof/Certificates/Slice0/Obligations.lean ====
section
/-! DEFINITION. The statements for the provers. Each docstring names the rules of spec/ it formalises. -/

open Sys2Proof Sys2Proof.Machine

/-! ### Encoding -/

/-- R82, R83, R85, R91: decoding and encoding agree in both directions on any bytes. The byte order in which a command word
stands before the decoder is the model's choice (log entry 10). -/
def Obligations.DecodeAndEncodeAgree : Prop :=
  ∀ (f : Format) (bs rest : List Byte) (i : Instr),
    decode f bs = .ok (i, rest) ↔ i.format = f ∧ bs = encode i ++ rest

/-- R82: each command is exactly one 32-bit word; every other word is rejected. -/
def Obligations.CommandWordsDecode : Prop :=
  ∀ w : Word,
    (decodeCommand w = .ok .deriveKey ↔ w = 0x00000001) ∧
    (decodeCommand w = .ok .encrypt ↔ w = 0x00000002) ∧
    (decodeCommand w = .ok .decrypt ↔ w = 0x00000003) ∧
    (w ≠ 0x00000001 → w ≠ 0x00000002 → w ≠ 0x00000003 → ∃ r, decodeCommand w = .rejected r)

/-- R82, R83, R85, R87, R89, R91: the values of the spec's tables, as bytes, decode to their instructions, and near misses are
rejected. The byte order in which a command word stands before the decoder and the names of the rejections of command words
are the model's choice (log entry 10). -/
def Obligations.SpecBytesDecode : Prop :=
  decode .commandWord [0x01, 0, 0, 0] = .ok (.deriveKey, []) ∧
  decode .commandWord [0x02, 0, 0, 0] = .ok (.encrypt, []) ∧
  decode .commandWord [0x03, 0, 0, 0] = .ok (.decrypt, []) ∧
  decode .commandWord [0x02, 0x01, 0, 0] = .rejected .reservedBits ∧
  decode .version [0x02] = .ok (.envVersionV2, []) ∧
  decode .version [0x01] = .rejected .unsupportedVersion ∧
  decode .magic [0x0D, 0xF0, 0xAD, 0xBA] = .ok (.recMagic, []) ∧
  decode .magic [0xBA, 0xAD, 0xF0, 0x0D] = .rejected .magicMismatch ∧
  decode .authLen [0x00, 0x00] = .ok (.recAuthLenNone, []) ∧
  decode .authLen [0x00, 0x01] = .rejected .authenticatorUnsupported

/-! ### Whose move it is -/

/-- R23: a legal word the host writes to `CMD` in `IDLE` or `DONE` runs its command on the state in which the host has made
that access. One host access a step, and no answer, are the model's choice (log entries 1 and 11). -/
def Obligations.StepRunsWrittenCommand : Prop :=
  ∀ (s : State) (w : Word) (q : List HostAccess) (i : Instr),
    s.st ≠ .busy → s.hostQueue = .writeReg .cmd w :: q → decodeCommand w = .ok i →
      step s = exec i { s with hostQueue := q, answer := none, cmd := w }

/-- R28, R97: at steps 2, 7 and 8 of `DECRYPT` a step decodes the discriminator that stands there and runs it. That the rows
run so is the model's choice (log entries 6 and 7). -/
def Obligations.StepRunsDiscriminator : Prop :=
  ∀ (s : State) (i : Instr) (rest : List Byte),
    s.st = .busy → s.hostQueue = [] → s.cmd = 0x00000003 →
      (s.stepNo = .s2 → decode .version [s.work.ops.inBuf.read 0] = .ok (i, rest) → step s = exec i s) ∧
      (s.stepNo = .s7 → decode .magic (s.work.recBuf.readRange 0 4) = .ok (i, rest) → step s = exec i s) ∧
      (s.stepNo = .s8 → decode .authLen (s.work.recBuf.readRange 4 2) = .ok (i, rest) → step s = exec i s)

/-- R91, R244: a word that is no command completes with `IllegalCommand`; nothing is drawn and no buffer changes but `OUT`. That
`STEP` is then step 0, and what becomes of the host's coming accesses and of the answer, is the model's choice (log entries
4, 1 and 11). -/
def Obligations.IllegalCommandCompletes : Prop :=
  ∀ (s : State) (w : Word) (q : List HostAccess),
    s.st ≠ .busy → s.hostQueue = .writeReg .cmd w :: q →
    w ≠ 0x00000001 → w ≠ 0x00000002 → w ≠ 0x00000003 →
      step s = .next { s with
        hostQueue := q, answer := none, cmd := w, out := [], outLen := 0, err := .illegalCommand, st := .done,
        work := Work.zero, stepNo := .s0 }

/-- R23, R277: a write of `CMD` while a command runs is ignored, and a read of `CMD` gives 0 at any time. One host access a
step, taken in BUSY before the next numbered step, and the field of the answer are the model's choice (log entries 1 and 11). -/
def Obligations.CommandRegisterAccess : Prop :=
  ∀ (s : State) (w : Word) (q : List HostAccess),
    (s.st = .busy → s.hostQueue = .writeReg .cmd w :: q → step s = .next { s with hostQueue := q, answer := none }) ∧
    (s.hostQueue = .readReg .cmd :: q → step s = .next { s with hostQueue := q, answer := some 0 })

/-- R21, R24, R26, R33: what the host reads between commands, and that reading changes nothing. -/
def Obligations.HostReadsAnswer : Prop :=
  ∀ (s : State) (q : List HostAccess), s.st ≠ .busy →
    (s.hostQueue = .readReg .status :: q → step s = .next { s with hostQueue := q, answer := some s.statusWord }) ∧
    (s.hostQueue = .readReg .passLen :: q → step s = .next { s with hostQueue := q, answer := some s.passLen }) ∧
    (s.hostQueue = .readReg .inLen :: q → step s = .next { s with hostQueue := q, answer := some s.inLen }) ∧
    (s.hostQueue = .readReg .outLen :: q → step s = .next { s with hostQueue := q, answer := some s.outLen }) ∧
    (∀ i, s.hasEntry .pass i = true → s.hostQueue = .readBuf .pass i :: q →
      step s = .next { s with hostQueue := q, answer := some (BitVec.ofNat 32 (s.pass.read i).toNat) }) ∧
    (∀ i, s.hasEntry .inp i = true → s.hostQueue = .readBuf .inp i :: q →
      step s = .next { s with hostQueue := q, answer := some (BitVec.ofNat 32 (s.inBuf.read i).toNat) }) ∧
    (∀ i, i < 65572 → s.hostQueue = .readBuf .out i :: q →
      step s = .next { s with hostQueue := q, answer := some (BitVec.ofNat 32 (s.out.read i).toNat) })

/-- R21, R25, R26: what the host writes to an operand register or buffer between commands is what it holds; nothing else of the
block changes. One host access a step, and the empty answer, are the model's choice (log entries 1 and 11). -/
def Obligations.HostWritesReachOperands : Prop :=
  ∀ (s : State) (q : List HostAccess), s.st ≠ .busy → s.MemoriesWf →
    (∀ v, s.hostQueue = .writeReg .passLen v :: q →
      step s = .next { s with hostQueue := q, answer := none, passLen := v }) ∧
    (∀ v, s.hostQueue = .writeReg .inLen v :: q →
      step s = .next { s with hostQueue := q, answer := none, inLen := v }) ∧
    (∀ i v, s.hasEntry .pass i = true → s.hostQueue = .writePass i v :: q →
      ∃ m : Memory 21, step s = .next { s with hostQueue := q, answer := none, pass := m } ∧
        m.read i = v ∧ ∀ j, j ≠ i → m.read j = s.pass.read j) ∧
    (∀ i v, s.hasEntry .inp i = true → s.hostQueue = .writeIn i v :: q →
      ∃ m : Memory 8, step s = .next { s with hostQueue := q, answer := none, inBuf := m } ∧
        m.read i = v ∧ ∀ j, j ≠ i → m.read j = s.inBuf.read j)

/-- R33: host writes to `STATUS`, `OUT_LEN` and `OUT` are ignored, at any time. That in BUSY the access is taken before the next
numbered step, and that the answer is empty after it, are the model's choice (log entries 1 and 11). -/
def Obligations.ReadOnlyWritesIgnored : Prop :=
  ∀ (s : State) (q : List HostAccess),
    (∀ v, s.hostQueue = .writeReg .status v :: q → step s = .next { s with hostQueue := q, answer := none }) ∧
    (∀ v, s.hostQueue = .writeReg .outLen v :: q → step s = .next { s with hostQueue := q, answer := none }) ∧
    (∀ i v, i < 65572 → s.hostQueue = .writeOut i v :: q → step s = .next { s with hostQueue := q, answer := none })

/-- R50: a host access to a buffer entry outside the index range of its buffer stops with a fault, at any time. The fault, and that
in BUSY the access is taken before the next numbered step, are the model's choice (log entries 9 and 1). -/
def Obligations.MissingEntriesFault : Prop :=
  ∀ (s : State) (q : List HostAccess) (i : Nat),
    (∀ v, s.hasEntry .pass i = false → s.hostQueue = .writePass i v :: q → step s = .fault (.noSuchEntry .pass i)) ∧
    (∀ v, s.hasEntry .inp i = false → s.hostQueue = .writeIn i v :: q → step s = .fault (.noSuchEntry .inp i)) ∧
    (∀ v, 65572 ≤ i → s.hostQueue = .writeOut i v :: q → step s = .fault (.noSuchEntry .out i)) ∧
    (∀ b, s.hasEntry b i = false → s.hostQueue = .readBuf b i :: q → step s = .fault (.noSuchEntry b i))

/-- U2, U3, R277: while a command runs, a host write of an operand reaches the register or buffer, and the command takes a free
value for it, and for it alone; `STATUS.ST` reads `BUSY` whatever the free value of `STATUS.ERR`; `OUT_LEN` and `OUT` read free
values; the operand registers and buffers read what they hold. The model's treatment (log entries 8 and 14; the order of access and
numbered step, and the field of the answer: log entries 1 and 11). -/
def Obligations.BusyOperandAccess : Prop :=
  ∀ (s : State) (q : List HostAccess), s.st = .busy → s.MemoriesWf →
    (∀ v, s.hostQueue = .writeReg .passLen v :: q →
      step s = .next { s with
        hostQueue := q, answer := none, passLen := v, freeReads := s.freeReads + 1
        work := { s.work with ops := { s.work.ops with passLen := Config.freeOperand s.freeReads } } }) ∧
    (∀ v, s.hostQueue = .writeReg .inLen v :: q →
      step s = .next { s with
        hostQueue := q, answer := none, inLen := v, freeReads := s.freeReads + 1
        work := { s.work with ops := { s.work.ops with inLen := Config.freeOperand s.freeReads } } }) ∧
    (∀ i v, s.hasEntry .pass i = true → s.hostQueue = .writePass i v :: q →
      ∃ m m' : Memory 21,
        step s = .next { s with
          hostQueue := q, answer := none, pass := m, freeReads := s.freeReads + 1
          work := { s.work with ops := { s.work.ops with pass := m' } } } ∧
        m.read i = v ∧ (∀ j, j ≠ i → m.read j = s.pass.read j) ∧
        m'.read i = (Config.freeOperand s.freeReads).extractLsb' 0 21 ∧
        ∀ j, j ≠ i → m'.read j = s.work.ops.pass.read j) ∧
    (∀ i v, s.hasEntry .inp i = true → s.hostQueue = .writeIn i v :: q →
      ∃ m m' : Memory 8,
        step s = .next { s with
          hostQueue := q, answer := none, inBuf := m, freeReads := s.freeReads + 1
          work := { s.work with ops := { s.work.ops with inBuf := m' } } } ∧
        m.read i = v ∧ (∀ j, j ≠ i → m.read j = s.inBuf.read j) ∧
        m'.read i = (Config.freeOperand s.freeReads).extractLsb' 0 8 ∧
        ∀ j, j ≠ i → m'.read j = s.work.ops.inBuf.read j) ∧
    (s.hostQueue = .readReg .status :: q →
      ∃ a : Word, step s = .next { s with hostQueue := q, answer := some a, freeReads := s.freeReads + 1 } ∧
        a.extractLsb' 0 2 = 1 ∧ a.extractLsb' 2 6 = 0 ∧ a.extractLsb' 12 20 = 0) ∧
    (s.hostQueue = .readReg .outLen :: q →
      step s = .next { s with
        hostQueue := q, answer := some (Config.freeRead s.freeReads), freeReads := s.freeReads + 1 }) ∧
    (∀ i, i < 65572 → s.hostQueue = .readBuf .out i :: q →
      step s = .next { s with
        hostQueue := q, freeReads := s.freeReads + 1
        answer := some (BitVec.ofNat 32 ((Config.freeRead s.freeReads).extractLsb' 0 8).toNat) }) ∧
    (s.hostQueue = .readReg .passLen :: q → step s = .next { s with hostQueue := q, answer := some s.passLen }) ∧
    (s.hostQueue = .readReg .inLen :: q → step s = .next { s with hostQueue := q, answer := some s.inLen }) ∧
    (∀ i, s.hasEntry .pass i = true → s.hostQueue = .readBuf .pass i :: q →
      step s = .next { s with hostQueue := q, answer := some (BitVec.ofNat 32 (s.pass.read i).toNat) }) ∧
    (∀ i, s.hasEntry .inp i = true → s.hostQueue = .readBuf .inp i :: q →
      step s = .next { s with hostQueue := q, answer := some (BitVec.ofNat 32 (s.inBuf.read i).toNat) })

/-- R24, R240: the fields of the status word and the numbers of the error codes; the codes 10 to 15 and the run state 3 are never
produced. -/
def Obligations.StatusWordLayout : Prop :=
  (∀ s : State,
    s.statusWord.extractLsb' 0 2 = s.st.code ∧ s.statusWord.extractLsb' 2 6 = 0 ∧
    s.statusWord.extractLsb' 8 4 = s.err.code ∧ s.statusWord.extractLsb' 12 20 = 0) ∧
  RunState.code .idle = 0 ∧ RunState.code .busy = 1 ∧ RunState.code .done = 2 ∧ (∀ r : RunState, r.code ≠ 3) ∧
  ErrCode.code .ok = 0 ∧ ErrCode.code .inputTooLarge = 1 ∧ ErrCode.code .unsupportedVersion = 2 ∧
  ErrCode.code .malformedEnvelope = 3 ∧ ErrCode.code .paddingInvalid = 4 ∧ ErrCode.code .magicMismatch = 5 ∧
  ErrCode.code .authenticatorUnsupported = 6 ∧ ErrCode.code .cipherInitError = 7 ∧
  ErrCode.code .illegalCommand = 8 ∧ ErrCode.code .badOperand = 9 ∧ (∀ e : ErrCode, e.code.toNat ≤ 9)

/-! ### Reset -/

/-- R34: the values after reset, in every build; the block, whatever operands the host has written, does nothing while no command
runs and the host makes no access; and a reset, also one that finds a command in progress, leaves the block at those values,
whatever it was doing. That in BUSY the reset access is taken before the next numbered step (log entry 1), and the values of the
fields R34 does not name, in the reset state the last clause gives (`STEP`, `BODY`, the answer, the sampled operands: log entries
4, 5, 11 and 14), are the model's choice; log entry 12 says what that clause leaves open. -/
def Obligations.ResetValues : Prop :=
  (∀ c : Config,
    let s := State.resetOf c
    s.build = c ∧ s.statusWord = 0 ∧ s.st = .idle ∧ s.err = .ok ∧ s.cmd = 0 ∧ s.passLen = 0 ∧ s.inLen = 0 ∧ s.outLen = 0 ∧
    (∀ i, s.pass.read i = 0 ∧ s.inBuf.read i = 0 ∧ s.out.read i = 0) ∧
    (∀ i, s.work.msg.read i = 0 ∧ s.work.recBuf.read i = 0) ∧
    s.work.key = Vector.replicate 32 0 ∧ s.work.sha = ⟨ShaWords.zero, Vector.replicate 64 0, ShaWords.zero⟩ ∧
    s.work.rk = Vector.replicate 60 0 ∧ s.work.aesState = zeroBlock ∧ s.work.ivr = zeroBlock ∧
    s.work.chain = zeroBlock ∧ s.work.recLen = 0) ∧
  (∀ s : State, s.st ≠ .busy → s.hostQueue = [] → step s = .next s) ∧
  (∀ (u : State) (q : List HostAccess), u.hostQueue = .reset :: q →
    ∃ t, step u = .next t ∧
      t = { State.resetOf u.build with entropy := t.entropy, hostQueue := t.hostQueue, freeReads := t.freeReads })

/-- R270: asserting reset, at any time, puts the block at its reset state, abandons a command in progress and leaves the
entropy source alone. What becomes of the host's coming accesses and of the count of free reads, and that in BUSY the
access is taken before the next numbered step, is the model's choice (log entries 12 and 1), and so are the values of `STEP`,
`BODY`, the answer and the sampled operands in the reset state (log entries 4, 5, 11 and 14). -/
def Obligations.ResetPinAbandonsCommand : Prop :=
  ∀ (s : State) (q : List HostAccess), s.hostQueue = .reset :: q →
    step s = .next { State.resetOf s.build with
      entropy := s.entropy, hostQueue := q, freeReads := s.freeReads }

/-- R270: "Reset is the only way to reach `IDLE`." -/
def Obligations.OnlyResetReachesIdle : Prop :=
  ∀ s t : State, step s = .next t → t.st = .idle → s.st = .idle ∨ s.hostQueue.head? = some .reset

/-! ### Completion -/

/-- R247, R248: the two completions: what they write, and that they leave every other field alone. -/
def Obligations.CompletionUpdates : Prop :=
  ∀ s : State,
    (∀ out : List Byte, out.length ≤ 65572 →
      let t := s.complete out
      t.output = out ∧ (∀ i, out.length ≤ i → t.out.read i = 0) ∧ t.outLen.toNat = out.length ∧
      t.err = .ok ∧ t.st = .done ∧ t.work = Work.zero ∧
      t = { s with out := t.out, outLen := t.outLen, err := t.err, st := t.st, work := t.work, stepNo := t.stepNo }) ∧
    (∀ e : ErrCode,
      let t := s.raise e
      (∀ i, t.out.read i = 0) ∧ t.outLen = 0 ∧ t.err = e ∧ t.st = .done ∧ t.work = Work.zero ∧
      t = { s with out := t.out, outLen := t.outLen, err := t.err, st := t.st, work := t.work, stepNo := t.stepNo })

/-- R249: `DONE` and the result hold until the host writes `CMD` again or resets the block. -/
def Obligations.ResultStaysUntilNextCommand : Prop :=
  ∀ s t : State, s.st = .done → step s = .next t →
    (∀ w, s.hostQueue.head? ≠ some (.writeReg .cmd w)) → s.hostQueue.head? ≠ some .reset →
      t.st = .done ∧ t.err = s.err ∧ t.outLen = s.outLen ∧ t.out = s.out

/-- R26, R31: the block never writes `PASS` or `IN`: only the host's own accesses change the operands, and nothing changes the
build. -/
def Obligations.OnlyHostChangesOperands : Prop :=
  ∀ s t : State, step s = .next t →
    t.build = s.build ∧
    (s.hostQueue.head? ≠ some .reset →
      ((∀ i v, s.hostQueue.head? ≠ some (.writePass i v)) → t.pass = s.pass) ∧
      ((∀ i v, s.hostQueue.head? ≠ some (.writeIn i v)) → t.inBuf = s.inBuf) ∧
      ((∀ v, s.hostQueue.head? ≠ some (.writeReg .passLen v)) → t.passLen = s.passLen) ∧
      ((∀ v, s.hostQueue.head? ≠ some (.writeReg .inLen v)) → t.inLen = s.inLen) ∧
      ((∀ w, s.hostQueue.head? ≠ some (.writeReg .cmd w)) → t.cmd = s.cmd))

/-! ### The commands -/

/-- R122, R120: `DERIVE_KEY` puts the 32 bytes of `SHA256(UTF16LE(P))` into `OUT`; a bad passphrase is `BadOperand`; a build
without the command takes it as illegal (D10). No draw is made. -/
def Obligations.DeriveKeyCommand : Prop :=
  ∀ s : State,
    (s.build.hasDeriveKey = true → s.passOperandOk = true →
      exec .deriveKey s = .next (s.complete (sha256 (utf16le s.passphrase))) ∧
      (sha256 (utf16le s.passphrase)).length = 32) ∧
    (s.build.hasDeriveKey = true → s.passOperandOk = false → exec .deriveKey s = .next (s.raise .badOperand)) ∧
    (s.build.hasDeriveKey = false → exec .deriveKey s = .next (s.raise .illegalCommand))

/-- R243: an operand outside what the ports can carry is `BadOperand`: an over-long passphrase, an entry that is no scalar
value, and for `DECRYPT` an over-long input. -/
def Obligations.BadOperandsRejected : Prop :=
  ∀ s : State,
    ((∃ c, s.passCap = some c ∧ c < s.passLen.toNat) ∨
        (∃ i, i < s.passLen.toNat ∧
          ((0xD800 ≤ (s.pass.read i).toNat ∧ (s.pass.read i).toNat ≤ 0xDFFF) ∨ 0x10FFFF < (s.pass.read i).toNat)) →
      (s.build.hasDeriveKey = true → exec .deriveKey s = .next (s.raise .badOperand)) ∧
      exec .encrypt s = .next (s.raise .badOperand) ∧ exec .decrypt s = .next (s.raise .badOperand)) ∧
    ((∃ c, s.inCap = some c ∧ c < s.inLen.toNat) → exec .decrypt s = .next (s.raise .badOperand))

/-- R190: `ENCRYPT` of a plaintext of at most 65535 bytes makes one draw and emits the envelope of it. -/
def Obligations.EncryptCompletes : Prop :=
  ∀ s : State, s.passOperandOk = true → s.inLen.toNat ≤ 65535 →
    exec .encrypt s = .next (s.afterDraw.complete
      ([0x02, 0x00, 0x00, 0x00] ++ s.nextDraw.bytes ++
        cbcEnc (sha256 (utf16le s.passphrase)) s.nextDraw
          (pad ([0x0D, 0xF0, 0xAD, 0xBA] ++ [0x00, 0x00] ++ le16 s.inLen.toNat ++ s.input))))

/-- R191: the check of `IN_LEN` against 65535, on the full 32 bits: above it, `InputTooLarge` with no draw; 65535 and below
pass. -/
def Obligations.EncryptChecksSize : Prop :=
  ∀ s : State, s.passOperandOk = true →
    (65535 < s.inLen.toNat → exec .encrypt s = .next (s.raise .inputTooLarge)) ∧
    (s.inLen.toNat ≤ 65535 → ∃ t, exec .encrypt s = .next t ∧ t.err = .ok)

/-- R198 (which the spec derives from R192, R193, R196, R197 and R173): the shape of every envelope `ENCRYPT` emits. -/
def Obligations.EncryptEnvelopeShape : Prop :=
  ∀ s : State, s.passOperandOk = true → s.inLen.toNat ≤ 65535 →
    ∃ t, exec .encrypt s = .next t ∧
      t.outLen.toNat = 20 + 16 * ((8 + s.inLen.toNat) / 16 + 1) ∧
      t.output.take 4 = [0x02, 0x00, 0x00, 0x00] ∧
      (t.output.drop 4).take 16 = s.nextDraw.bytes ∧
      cbcDec (deriveKey s.passphrase) s.nextDraw (t.output.drop 20) =
        [0x0D, 0xF0, 0xAD, 0xBA, 0x00, 0x00] ++ le16 s.inLen.toNat ++ s.input ++
          List.replicate (16 - (8 + s.inLen.toNat) % 16) (BitVec.ofNat 8 (16 - (8 + s.inLen.toNat) % 16))

/-- R199 (f): two `ENCRYPT` commands with the same operands give the same envelope exactly when their draws are equal. -/
def Obligations.EnvelopesEqualIffDrawsEqual : Prop :=
  ∀ s u : State, s.passOperandOk = true → u.passOperandOk = true → s.inLen.toNat ≤ 65535 →
    s.passphrase = u.passphrase → s.inLen = u.inLen → s.input = u.input →
      ∃ t v, exec .encrypt s = .next t ∧ exec .encrypt u = .next v ∧ (t.output = v.output ↔ s.nextDraw = u.nextDraw)

/-- R211: an envelope shorter than 36 bytes, or whose ciphertext is not whole blocks, is `MalformedEnvelope`, whatever its
version byte. -/
def Obligations.DecryptChecksLength : Prop :=
  ∀ s : State, s.passOperandOk = true → s.inOperandOk = true →
    (s.inLen.toNat < 36 ∨ (s.inLen.toNat - 20) % 16 ≠ 0) → exec .decrypt s = .next (s.raise .malformedEnvelope)

/-- R212: a version byte other than 2 of an envelope of legal length is `UnsupportedVersion`. -/
def Obligations.DecryptChecksVersion : Prop :=
  ∀ s : State, s.passOperandOk = true → s.inOperandOk = true →
    36 ≤ s.inLen.toNat → (s.inLen.toNat - 20) % 16 = 0 → s.inBuf.read 0 ≠ 0x02 →
      exec .decrypt s = .next (s.raise .unsupportedVersion)

/-- R216: invalid padding is `PaddingInvalid`, whatever the record holds. -/
def Obligations.DecryptChecksPadding : Prop :=
  ∀ s : State, s.DecryptReady → s.unpadded = none → exec .decrypt s = .next (s.raise .paddingInvalid)

/-- R217 (decision D14 of the spec): an unpadded record of fewer than 8 bytes is `MalformedEnvelope`, whatever it holds. -/
def Obligations.DecryptChecksRecordHeader : Prop :=
  ∀ (s : State) (r : List Byte), s.DecryptReady → s.unpadded = some r → r.length < 8 →
    exec .decrypt s = .next (s.raise .malformedEnvelope)

/-- R218: a magic other than `0xBAADF00D`, little-endian, is `MagicMismatch`, whatever the other fields hold. -/
def Obligations.DecryptChecksMagic : Prop :=
  ∀ (s : State) (r : List Byte), s.DecryptReady → s.unpadded = some r → 8 ≤ r.length →
    leNum (r.take 4) ≠ 0xBAADF00D → exec .decrypt s = .next (s.raise .magicMismatch)

/-- R219: an AuthLen other than 0 is `AuthenticatorUnsupported`, whatever PlaintextLength says. -/
def Obligations.DecryptChecksAuthLen : Prop :=
  ∀ (s : State) (r : List Byte), s.DecryptReady → s.unpadded = some r → 8 ≤ r.length →
    leNum (r.take 4) = 0xBAADF00D → leNum ((r.drop 4).take 2) ≠ 0 →
      exec .decrypt s = .next (s.raise .authenticatorUnsupported)

/-- R220, R221: with `n` the PlaintextLength, a sum `8 + n` past the unpadded record is `MalformedEnvelope`; any other record,
also one with bytes after the plaintext, gives the bytes [8, 8+n). The sum does not wrap. -/
def Obligations.DecryptChecksPlaintextLength : Prop :=
  ∀ (s : State) (r : List Byte), s.DecryptReady → s.unpadded = some r → 8 ≤ r.length →
    leNum (r.take 4) = 0xBAADF00D → leNum ((r.drop 4).take 2) = 0 →
      let n := leNum ((r.drop 6).take 2)
      (r.length < 8 + n → exec .decrypt s = .next (s.raise .malformedEnvelope)) ∧
      (8 + n ≤ r.length → exec .decrypt s = .next (s.complete ((r.drop 8).take n)))

/-! ### The discriminators -/

/-- R212: the Version byte 2 goes on to step 3 and every other value is `UnsupportedVersion`; the byte is the sampled `IN[0]`
(R23). That the row runs as step 2, and where the sample is held, is the model's choice (log entries 6 and 14). -/
def Obligations.VersionDiscriminator : Prop :=
  ∀ s : State, 1 ≤ s.work.ops.inLen.toNat →
    (s.work.ops.inBuf.read 0 = 0x02 → exec .envVersionV2 s = .next { s with stepNo := .s3 }) ∧
    (s.work.ops.inBuf.read 0 ≠ 0x02 → exec .envVersionV2 s = .next (s.raise .unsupportedVersion))

/-- R218: the Magic `0D F0 AD BA` goes on to step 8 and every other value is `MagicMismatch`. That the row runs as step 7 is the
model's choice (log entry 6). -/
def Obligations.MagicDiscriminator : Prop :=
  ∀ s : State, 4 ≤ s.work.recLen.toNat →
    (s.work.recBuf.readRange 0 4 = [0x0D, 0xF0, 0xAD, 0xBA] → exec .recMagic s = .next { s with stepNo := .s8 }) ∧
    (s.work.recBuf.readRange 0 4 ≠ [0x0D, 0xF0, 0xAD, 0xBA] → exec .recMagic s = .next (s.raise .magicMismatch))

/-- R219: the AuthLen 0 goes on to step 9 and every other value is `AuthenticatorUnsupported`. That the row runs as step 8 is the
model's choice (log entry 6). -/
def Obligations.AuthLenDiscriminator : Prop :=
  ∀ s : State, 6 ≤ s.work.recLen.toNat →
    (s.work.recBuf.read 4 = 0 → s.work.recBuf.read 5 = 0 → exec .recAuthLenNone s = .next { s with stepNo := .s9 }) ∧
    (s.work.recBuf.read 4 ≠ 0 ∨ s.work.recBuf.read 5 ≠ 0 →
      exec .recAuthLenNone s = .next (s.raise .authenticatorUnsupported))

/-! ### Rules over all commands -/

/-- R251, R29, R248: every command, whatever its operands, reaches `DONE` with the working registers zero; it never reports
`CipherInitError`; on an error `OUT_LEN` is 0 and `OUT` all zero. -/
def Obligations.EveryCommandReachesDone : Prop :=
  ∀ (s : State) (i : Instr), i.isCommand = true →
    ∃ t, exec i s = .next t ∧ t.st = .done ∧ t.work = Work.zero ∧ t.err ≠ .cipherInitError ∧
      (t.err ≠ .ok → t.outLen = 0 ∧ ∀ a, t.out.read a = 0)

/-- R247, R248: the frame of `DERIVE_KEY`, `ENCRYPT` and `DECRYPT`: every host register but `STATUS` and `OUT_LEN`, every entry of
`PASS` and `IN`, the build and the host are unchanged; the entropy source is unchanged but for `ENCRYPT`'s one draw. -/
def Obligations.CommandFrame : Prop :=
  ∀ (s t : State) (i : Instr), i.isCommand = true → exec i s = .next t →
    t.build = s.build ∧ t.cmd = s.cmd ∧ t.passLen = s.passLen ∧ t.inLen = s.inLen ∧
    (∀ a, t.pass.read a = s.pass.read a) ∧ (∀ a, t.inBuf.read a = s.inBuf.read a) ∧
    t.hostQueue = s.hostQueue ∧ t.answer = s.answer ∧ t.freeReads = s.freeReads ∧
    (i ≠ .encrypt → t.entropy = s.entropy) ∧
    (t.entropy = s.entropy ∨ t.entropy = ⟨s.entropy.fixed.tail, s.entropy.drawn + 1⟩)

/-- R212, R218, R219: the frame of the three discriminators: they change `STEP` alone, or they end the command with an error and
change no operand, no draw and no host state (log entry 6). -/
def Obligations.DiscriminatorFrame : Prop :=
  ∀ (s t : State) (i : Instr), i.isCommand = false → exec i s = .next t →
    t = { s with stepNo := t.stepNo } ∨
    (t.st = .done ∧ t.err ≠ .ok ∧
      t = { s with out := [], outLen := 0, err := t.err, st := .done, work := Work.zero, stepNo := t.stepNo })

/-- R22: exactly one draw in an `ENCRYPT` that passes its step 1, none in one that fails at step 0 or 1, none in `DECRYPT`,
none in `DERIVE_KEY`. -/
def Obligations.DrawCount : Prop :=
  ∀ s : State,
    (∃ t, exec .encrypt s = .next t ∧
      t.entropy.drawn = s.entropy.drawn +
        (if s.passOperandOk = true ∧ s.inLen.toNat ≤ 65535 then 1 else 0)) ∧
    (∃ t, exec .decrypt s = .next t ∧ t.entropy = s.entropy) ∧
    (∃ t, exec .deriveKey s = .next t ∧ t.entropy = s.entropy)

/-- R11: the result of a command is a function of the command, the passphrase, the input data and, for `ENCRYPT`, the draw (and
the build's capacities); `DERIVE_KEY` does not depend on the input. -/
def Obligations.ResultDependsOnOperandsOnly : Prop :=
  ∀ (s u : State) (i : Instr), i.isCommand = true →
    s.build = u.build → s.passLen = u.passLen → s.passphrase = u.passphrase →
    (i ≠ .deriveKey → s.inLen = u.inLen ∧ s.input = u.input) → (i = .encrypt → s.nextDraw = u.nextDraw) →
      ∃ t v, exec i s = .next t ∧ exec i u = .next v ∧
        t.statusWord = v.statusWord ∧ t.outLen = v.outLen ∧ t.out = v.out

/-- R222: the Reserved bytes `IN[1]`, `IN[2]`, `IN[3]` have no effect on the result of `DECRYPT`. -/
def Obligations.ReservedBytesIgnored : Prop :=
  ∀ (s : State) (m : Memory 8), (∀ a, a ≠ 1 → a ≠ 2 → a ≠ 3 → m.read a = s.inBuf.read a) →
    ∃ t v, exec .decrypt s = .next t ∧ exec .decrypt { s with inBuf := m } = .next v ∧
      t.statusWord = v.statusWord ∧ t.outLen = v.outLen ∧ t.out = v.out

/-- R200: the round trip. `DECRYPT`, on any state whose operands are the same passphrase and the envelope that `ENCRYPT` made,
succeeds and returns the plaintext. -/
def Obligations.RoundTrip : Prop :=
  ∀ s : State, s.passOperandOk = true → s.inLen.toNat ≤ 65535 →
    ∃ t, exec .encrypt s = .next t ∧
      ∀ u : State, u.passOperandOk = true → u.passphrase = s.passphrase → u.input = t.output →
        exec .decrypt u = .next (u.complete s.input)

/-- R190, R210: on every state, each of `ENCRYPT` and `DECRYPT` gives what the source's function over plain byte lists gives,
once step 0 has accepted the operands. -/
def Obligations.CommandsRefineSourceFunctions : Prop :=
  ∀ s : State,
    (exec .encrypt s = .next
      (if s.passOperandOk = false then s.raise .badOperand
       else match sourceEncrypt s.passphrase s.input s.nextDraw with
        | .bytes o => s.afterDraw.complete o
        | .error e => s.raise e)) ∧
    (exec .decrypt s = .next
      (if s.passOperandOk = false ∨ s.inOperandOk = false then s.raise .badOperand
       else s.settle (sourceDecrypt s.passphrase s.input)))

/-- R28, R58: a command run as one atomic step is its numbered steps run one after another by the sequencer (`DECRYPT` has twelve;
after the end of a command the machine stays where it is). -/
def Obligations.AtomicCommandIsItsSteps : Prop :=
  ∀ s : State, s.hostQueue = [] →
    (s.cmd = 0x00000001 → Host.Core.run Sys2Proof.core 12 s.start = exec .deriveKey s) ∧
    (s.cmd = 0x00000002 → Host.Core.run Sys2Proof.core 12 s.start = exec .encrypt s) ∧
    (s.cmd = 0x00000003 → Host.Core.run Sys2Proof.core 12 s.start = exec .decrypt s)

/-- R28: no step is repeated and `STEP` never moves backwards while a command is in progress. -/
def Obligations.StepNumbersIncrease : Prop :=
  ∀ s t : State, s.st = .busy → s.hostQueue = [] → step s = .next t → t.st = .busy → s.stepNo.place < t.stepNo.place

/-! ### The algorithms -/

/-- R153: block decryption and block encryption under the same expanded key are inverse to each other. -/
def Obligations.AesBlocksInverse : Prop :=
  ∀ (key : Vector Byte 32) (x : Block),
    aesDecBlock (keyExp key.toList) (aesEncBlock (keyExp key.toList) x) = x ∧
    aesEncBlock (keyExp key.toList) (aesDecBlock (keyExp key.toList) x) = x

/-- R143, R148 to R150: each inverse transformation undoes its transformation. -/
def Obligations.RoundTransformationsInverse : Prop :=
  ∀ x : Block,
    invSubBytes (subBytes x) = x ∧ subBytes (invSubBytes x) = x ∧
    invShiftRows (shiftRows x) = x ∧ shiftRows (invShiftRows x) = x ∧
    invMixColumns (mixColumns x) = x ∧ mixColumns (invMixColumns x) = x

/-- R146: the expanded key: the first eight words are the key's, and every later one follows from the word before it and the word
eight before it. -/
def Obligations.KeyScheduleRecurrence : Prop :=
  ∀ key : Vector Byte 32,
    let rk := keyExp key.toList
    rk.length = 60 ∧
    (∀ i, i < 8 → rk.getD i 0 = be32Word (key.toList.drop (4 * i))) ∧
    (∀ i, 8 ≤ i → i < 60 → rk.getD i 0 = rk.getD (i - 8) 0 ^^^
      (if i % 8 = 0 then
        subWord (rotWord (rk.getD (i - 1) 0)) ^^^ (BitVec.ofNat 32 (rcon (i / 8)).toNat <<< 24)
      else if i % 8 = 4 then subWord (rk.getD (i - 1) 0)
      else rk.getD (i - 1) 0))

/-- R116: the message schedule of a 64-byte block. -/
def Obligations.MessageScheduleRecurrence : Prop :=
  ∀ block : Vector Byte 64,
    let w := shaSchedule block.toList
    w.length = 64 ∧
    (∀ t, t < 16 → w.getD t 0 = be32Word (block.toList.drop (4 * t))) ∧
    (∀ t, 16 ≤ t → t < 64 →
      w.getD t 0 = ssig1 (w.getD (t - 2) 0) + w.getD (t - 7) 0 + ssig0 (w.getD (t - 15) 0) + w.getD (t - 16) 0)

/-- R113: the padded message is whole 64-byte blocks, the least number that fit, starts with the message and the byte `80`, and
ends with the message's length in bits, most significant byte first. -/
def Obligations.MessagePaddingShape : Prop :=
  ∀ m : List Byte, m.length < 2 ^ 61 →
    (shaPad m).length % 64 = 0 ∧ (shaPad m).length < m.length + 9 + 64 ∧
    (m ++ [0x80]) <+: shaPad m ∧
    leNum ((shaPad m).drop ((shaPad m).length - 8)).reverse = 8 * m.length ∧
    ∀ i, m.length < i → i < (shaPad m).length - 8 → (shaPad m).getD i 0 = 0

/-- R110: an entry below 0x10000 is one code unit, low byte first (for a surrogate, which R96 makes illegal and R110 does not
cover, the model's choice: log entry 7); the surrogate pair of an entry from 0x10000 on lies in the two
surrogate ranges, high first, and holds the entry; and no two passphrases of scalar values have the same encoding. -/
def Obligations.Utf16Faithful : Prop :=
  (∀ c : CodePoint, c.toNat < 0x10000 →
    utf16Entry c = [BitVec.ofNat 8 (c.toNat % 256), BitVec.ofNat 8 (c.toNat / 256)]) ∧
  (∀ c : CodePoint, 0x10000 ≤ c.toNat → c.toNat ≤ 0x10FFFF →
    ∃ hi lo, utf16Entry c = le16 hi ++ le16 lo ∧ 0xD800 ≤ hi ∧ hi ≤ 0xDBFF ∧ 0xDC00 ≤ lo ∧ lo ≤ 0xDFFF ∧
      c.toNat = 0x10000 + 1024 * (hi - 0xD800) + (lo - 0xDC00)) ∧
  (∀ p q : List CodePoint, p.all isScalar = true → q.all isScalar = true → utf16le p = utf16le q → p = q)

/-- R173 (which the spec derives from R170, R171 and R153): decryption undoes encryption under the same key and IV. -/
def Obligations.CbcInverse : Prop :=
  ∀ (key : Vector Byte 32) (iv : Block) (x : List Byte), x.length % 16 = 0 →
    cbcDec key.toList iv (cbcEnc key.toList iv x) = x

/-- R171, corner cases: a change in the IV changes the first 16 bytes of the plaintext, bit for bit, and nothing else. -/
def Obligations.IvChangeStaysInFirstBlock : Prop :=
  ∀ (key : Vector Byte 32) (iv d : Block) (y : List Byte), y.length % 16 = 0 → 16 ≤ y.length →
    (cbcDec key.toList (iv.xor d) y).take 16 = ((Block.ofBytes (cbcDec key.toList iv y)).xor d).bytes ∧
    (cbcDec key.toList (iv.xor d) y).drop 16 = (cbcDec key.toList iv y).drop 16

/-- R174, R175, R177 (the last two derived in the spec): the padded length, the padding's bytes, and that unpadding undoes
padding. -/
def Obligations.PaddingUndone : Prop :=
  ∀ r : List Byte,
    (pad r).length = 16 * (r.length / 16 + 1) ∧
    (∃ p, 1 ≤ p ∧ p ≤ 16 ∧ (r.length + p) % 16 = 0 ∧ pad r = r ++ List.replicate p (BitVec.ofNat 8 p)) ∧
    unpad (pad r) = some r

/-- R176: exactly the buffers that end in `p` bytes of value `p`, `p` from 1 to 16, are accepted, and those bytes are stripped. -/
def Obligations.UnpaddingAccepts : Prop :=
  ∀ x r : List Byte, 0 < x.length → x.length % 16 = 0 →
    (unpad x = some r ↔ ∃ p, 1 ≤ p ∧ p ≤ 16 ∧ x = r ++ List.replicate p (BitVec.ofNat 8 p))

/-! ### Invariants -/

/-- The invariant between two commands (R4, R26, R29, R50, R154, R197, R248; canonical buffers) is kept by every step. -/
def Obligations.StepKeepsInvariant : Prop :=
  ∀ s t : State, s.Inv → step s = .next t → t.Inv

/-- The invariant holds after reset, in every build. -/
def Obligations.ResetHasInvariant : Prop :=
  ∀ c : Config, (State.resetOf c).Inv

/-- Every step, in every state, keeps the buffers in canonical form. -/
def Obligations.StepKeepsMemoriesCanonical : Prop :=
  ∀ s t : State, s.MemoriesWf → step s = .next t → t.MemoriesWf

/-- R251: from a state of the invariant, a step can fail to answer a next state only by a host access to an entry that does not
exist. -/
def Obligations.StepIsSafe : Prop :=
  ∀ s : State, s.Inv → (∀ a, s.hostQueue.head? = some a → a.entryExists s = true) → s.Safe

/-- R251: no step, from any state, is a refusal, and the only faults are a host access to an entry that does not exist and a
`STEP` the command in progress, `DERIVE_KEY` or `ENCRYPT`, does not have. The two faults are the model's choice (log entries 7 and 9). -/
def Obligations.StepNeverRefuses : Prop :=
  ∀ s : State,
    (∃ t, step s = .next t) ∨
    (∃ b i, step s = .fault (.noSuchEntry b i) ∧ s.hasEntry b i = false ∧ ∃ a q, s.hostQueue = a :: q ∧ a.entryExists s = false) ∨
    (step s = .fault (.noSuchStep s.stepNo) ∧ s.st = .busy ∧ s.hostQueue = [] ∧
      ((decodeCommand s.cmd = .ok .deriveKey ∧ kdfStep s.stepNo s = none) ∨
        (decodeCommand s.cmd = .ok .encrypt ∧ encStep s.stepNo s = none)))
end

