-- ==== Sys2Proof/Laws/Aes.lean ====
section
/-! SUPPORT. The laws of the field GF(2^8) and of the tables (spec/41_aes256.md R141 to R143): multiplication by a constant and the
column transformations (R150) are additive, and the two tables undo each other. -/

namespace Sys2Proof.Machine

/-- `xtime` as a shift and a conditional reduction. -/
theorem xtime_eq (a : Byte) : xtime a = (a <<< 1) ^^^ (if a.getLsbD 7 then 0x1B else 0) := by
  revert a; decide

/-- Doubling is additive in GF(2^8) (R141). -/
theorem xtime_xor (a b : Byte) : xtime (a ^^^ b) = xtime a ^^^ xtime b := by
  rw [xtime_eq, xtime_eq, xtime_eq, BitVec.shiftLeft_xor_distrib, BitVec.getLsbD_xor]
  have h : ∀ x y k : Byte, x ^^^ k ^^^ (y ^^^ k) = x ^^^ y := fun x y k => by
    rw [show x ^^^ k ^^^ (y ^^^ k) = x ^^^ y ^^^ (k ^^^ k) by ac_rfl]; simp
  cases a.getLsbD 7 <;> cases b.getLsbD 7 <;> simp [h] <;> ac_rfl

theorem xtimes_xor (i : Nat) (a b : Byte) : xtimes i (a ^^^ b) = xtimes i a ^^^ xtimes i b := by
  induction i with
  | zero => rfl
  | succ i ih => rw [xtimes, xtimes, xtimes, ih, xtime_xor]

/-- Multiplication is additive in its first operand (R141). -/
theorem gmul_xor (a b k : Byte) : gmul (a ^^^ b) k = gmul a k ^^^ gmul b k := by
  have h : ∀ (l : List Nat) (x y : Byte),
      l.foldl (fun acc i => if k.getLsbD i then acc ^^^ xtimes i (a ^^^ b) else acc) (x ^^^ y) =
        l.foldl (fun acc i => if k.getLsbD i then acc ^^^ xtimes i a else acc) x ^^^
          l.foldl (fun acc i => if k.getLsbD i then acc ^^^ xtimes i b else acc) y := by
    intro l
    induction l with
    | nil => intro x y; rfl
    | cons i l ih =>
      intro x y
      simp only [List.foldl_cons]
      split
      · rw [xtimes_xor, ← ih]
        congr 1
        ac_rfl
      · exact ih x y
  have h0 := h (List.range 8) 0 0
  rwa [BitVec.xor_self] at h0

/-- `INV_SBOX[SBOX[a]] = a` (R143). -/
theorem invSbox_sbox (a : Byte) : invSbox (sbox a) = a := by revert a; decide +kernel

/-- `SBOX[INV_SBOX[a]] = a` (R143). -/
theorem sbox_invSbox (a : Byte) : sbox (invSbox a) = a := by revert a; decide +kernel

/-- `MixColumns` on one column is additive (R150). -/
theorem mixColumn_xor (x y : Column) : mixColumn (x.xor y) = (mixColumn x).xor (mixColumn y) := by
  simp only [mixColumn, Column.xor, gmul_xor]
  congr 1 <;> ac_rfl

/-- `InvMixColumns` on one column is additive (R150). -/
theorem invMixColumn_xor (x y : Column) : invMixColumn (x.xor y) = (invMixColumn x).xor (invMixColumn y) := by
  simp only [invMixColumn, Column.xor, gmul_xor]
  congr 1 <;> ac_rfl

end Sys2Proof.Machine
end

