-- ==== Sys2Proof/Laws/Memory.lean ====
section
/-! SUPPORT. The laws of the buffers: a read after a write, writes elsewhere, the canonical form, and memories built from a
list. -/

namespace Sys2Proof.Machine

variable {w : Nat}

@[simp] theorem Memory.read_nil (a : Nat) : Memory.read ([] : Memory w) a = 0 := rfl

theorem Memory.read_cons (c : Nat × BitVec w) (m : Memory w) (a : Nat) :
    Memory.read (c :: m) a = if c.1 = a then c.2 else Memory.read m a := rfl

/-- An index below every listed one reads 0. -/
theorem Memory.read_eq_zero_of_lt {m : Memory w} {a : Nat} (h : ∀ c ∈ m, a < c.1) : m.read a = 0 := by
  induction m with
  | nil => rfl
  | cons c m ih =>
    have hc := h c (by simp)
    rw [Memory.read_cons, if_neg (by omega), ih (fun d hd => h d (by simp [hd]))]

/-- An index that is not listed reads 0. -/
theorem Memory.read_eq_zero_of_not_mem {m : Memory w} {a : Nat} (h : ∀ c ∈ m, c.1 ≠ a) : m.read a = 0 := by
  induction m with
  | nil => rfl
  | cons c m ih => rw [Memory.read_cons, if_neg (h c (by simp)), ih (fun d hd => h d (by simp [hd]))]

theorem Memory.wf_nil : Memory.wf ([] : Memory w) := by simp [Memory.wf]

theorem Memory.wf_tail {c : Nat × BitVec w} {m : Memory w} (h : Memory.wf (c :: m)) : Memory.wf m :=
  ⟨(List.pairwise_cons.1 h.1).2, fun d hd => h.2 d (by simp [hd])⟩

theorem Memory.lt_of_wf {c : Nat × BitVec w} {m : Memory w} (h : Memory.wf (c :: m)) : ∀ d ∈ m, c.1 < d.1 :=
  (List.pairwise_cons.1 h.1).1

theorem Memory.wf_cons {c : Nat × BitVec w} {m : Memory w} (hm : Memory.wf m) (hv : c.2 ≠ 0)
    (hlt : ∀ d ∈ m, c.1 < d.1) : Memory.wf (c :: m) :=
  ⟨List.pairwise_cons.2 ⟨hlt, hm.1⟩, by
    intro d hd
    rcases List.mem_cons.1 hd with rfl | hd
    · exact hv
    · exact hm.2 d hd⟩

theorem Memory.read_put_same {m : Memory w} {a : Nat} (h : ∀ c ∈ m, a < c.1) (v : BitVec w) :
    (Memory.put a v m).read a = v := by
  unfold Memory.put
  split
  · next hv => rw [hv, Memory.read_eq_zero_of_lt h]
  · rw [Memory.read_cons, if_pos rfl]

theorem Memory.read_put_other (m : Memory w) {a b : Nat} (hab : b ≠ a) (v : BitVec w) :
    (Memory.put a v m).read b = m.read b := by
  unfold Memory.put
  split
  · rfl
  · rw [Memory.read_cons, if_neg hab.symm]

theorem Memory.mem_put {m : Memory w} {a : Nat} {v : BitVec w} {c : Nat × BitVec w} (h : c ∈ Memory.put a v m) :
    c ∈ m ∨ (c = (a, v) ∧ v ≠ 0) := by
  unfold Memory.put at h
  split at h
  · exact .inl h
  · next hv => exact (List.mem_cons.1 h).elim (fun h => .inr ⟨h, hv⟩) .inl

theorem Memory.wf_put {m : Memory w} (hm : m.wf) {a : Nat} (h : ∀ c ∈ m, a < c.1) (v : BitVec w) :
    (Memory.put a v m).wf := by
  unfold Memory.put
  split
  · exact hm
  · next hv => exact Memory.wf_cons hm hv h

/-- A write gives the index its value. -/
theorem Memory.read_write_same {m : Memory w} (h : m.wf) (a : Nat) (v : BitVec w) : (m.write a v).read a = v := by
  induction m with
  | nil => exact Memory.read_put_same (by simp) v
  | cons c m ih =>
    have hlt := Memory.lt_of_wf h
    simp only [Memory.write]
    split
    · next hac =>
      refine Memory.read_put_same (fun d hd => ?_) v
      rcases List.mem_cons.1 hd with rfl | hd
      · exact hac
      · exact lt_trans hac (hlt d hd)
    · split
      · next hca => exact Memory.read_put_same (fun d hd => hca ▸ hlt d hd) v
      · next hca => rw [Memory.read_cons, if_neg hca, ih (Memory.wf_tail h)]

/-- A write leaves every other index alone. -/
theorem Memory.read_write_other (m : Memory w) {a b : Nat} (hab : b ≠ a) (v : BitVec w) :
    (m.write a v).read b = m.read b := by
  induction m with
  | nil => exact Memory.read_put_other [] hab v
  | cons c m ih =>
    simp only [Memory.write]
    split
    · exact Memory.read_put_other _ hab v
    · split
      · next hca => rw [Memory.read_put_other _ hab, Memory.read_cons, if_neg (by omega)]
      · rw [Memory.read_cons, Memory.read_cons, ih]

/-- The cells a write can leave: the old ones and the new one. -/
theorem Memory.mem_write {m : Memory w} {a : Nat} {v : BitVec w} {c : Nat × BitVec w} (h : c ∈ m.write a v) :
    c ∈ m ∨ c = (a, v) := by
  induction m with
  | nil => exact (Memory.mem_put h).imp_right (·.1)
  | cons d m ih =>
    simp only [Memory.write] at h
    split at h
    · exact (Memory.mem_put h).imp_right (·.1)
    · split at h
      · exact (Memory.mem_put h).imp (List.mem_cons_of_mem d) (·.1)
      · rcases List.mem_cons.1 h with h | h
        · exact .inl (by simp [h])
        · exact (ih h).imp_left (List.mem_cons_of_mem d)

/-- A write keeps the canonical form. -/
theorem Memory.wf_write {m : Memory w} (h : m.wf) (a : Nat) (v : BitVec w) : (m.write a v).wf := by
  induction m with
  | nil => exact Memory.wf_put Memory.wf_nil (by simp) v
  | cons c m ih =>
    have hlt := Memory.lt_of_wf h
    have ht := Memory.wf_tail h
    simp only [Memory.write]
    split
    · next hac =>
      refine Memory.wf_put h (fun d hd => ?_) v
      rcases List.mem_cons.1 hd with rfl | hd
      · exact hac
      · exact lt_trans hac (hlt d hd)
    · next hac =>
      split
      · next hca => exact Memory.wf_put ht (fun d hd => hca ▸ hlt d hd) v
      · next hca =>
        refine Memory.wf_cons (ih ht) (h.2 c (by simp)) (fun d hd => ?_)
        rcases Memory.mem_write hd with hd | rfl
        · exact hlt d hd
        · exact lt_of_le_of_ne (not_lt.1 hac) hca

/-- Writing a range keeps the canonical form. -/
theorem Memory.wf_writeRange {m : Memory w} (h : m.wf) (a : Nat) (vs : List (BitVec w)) : (m.writeRange a vs).wf := by
  induction vs generalizing m a with
  | nil => exact h
  | cons v vs ih => exact ih (Memory.wf_write h a v) (a + 1)

/-- The cells of a list lie at its indices. -/
theorem Memory.mem_cellsFrom {a : Nat} {vs : List (BitVec w)} {c : Nat × BitVec w} (h : c ∈ Memory.cellsFrom a vs) :
    a ≤ c.1 ∧ c.1 < a + vs.length := by
  induction vs generalizing a with
  | nil => simp [Memory.cellsFrom] at h
  | cons v vs ih =>
    rw [List.length_cons]
    rcases Memory.mem_put h with h | ⟨rfl, -⟩
    · have := ih h; omega
    · dsimp only; omega

theorem Memory.wf_cellsFrom (a : Nat) (vs : List (BitVec w)) : (Memory.cellsFrom a vs).wf := by
  induction vs generalizing a with
  | nil => exact Memory.wf_nil
  | cons v vs ih => exact Memory.wf_put (ih _) (fun d hd => (Memory.mem_cellsFrom hd).1) v

/-- A memory built from a list is in canonical form. -/
theorem Memory.wf_ofList (vs : List (BitVec w)) : (Memory.ofList vs).wf := Memory.wf_cellsFrom 0 vs

/-- A memory built from a list lists only indices of the list. -/
theorem Memory.lt_of_mem_ofList {vs : List (BitVec w)} {c : Nat × BitVec w} (h : c ∈ Memory.ofList vs) :
    c.1 < vs.length := by
  have := (Memory.mem_cellsFrom h).2
  omega

theorem Memory.read_cellsFrom (a : Nat) (vs : List (BitVec w)) (i : Nat) :
    (Memory.cellsFrom a vs).read (a + i) = vs.getD i 0 := by
  induction vs generalizing a i with
  | nil => simp [Memory.cellsFrom]
  | cons v vs ih =>
    rw [Memory.cellsFrom]
    cases i with
    | zero =>
      exact Memory.read_put_same (a := a) (fun d hd => (Memory.mem_cellsFrom hd).1) v
    | succ i =>
      rw [Memory.read_put_other _ (by omega), show a + (i + 1) = a + 1 + i by omega, ih]
      rfl

/-- A memory built from a list reads as the list, and 0 beyond it. -/
@[simp] theorem Memory.read_ofList (vs : List (BitVec w)) (i : Nat) : (Memory.ofList vs).read i = vs.getD i 0 := by
  simpa [Memory.ofList] using Memory.read_cellsFrom 0 vs i

@[simp] theorem Memory.length_readRange (m : Memory w) (a n : Nat) : (m.readRange a n).length = n := by
  induction n generalizing a with
  | zero => rfl
  | succ n ih => simp [Memory.readRange, ih]

@[simp] theorem Memory.readRange_zero (m : Memory w) (a : Nat) : m.readRange a 0 = [] := rfl

/-- A range read entry by entry. -/
theorem Memory.getElem_readRange (m : Memory w) (a n i : Nat) (h : i < (m.readRange a n).length) :
    (m.readRange a n)[i] = m.read (a + i) := by
  induction n generalizing a i with
  | zero => simp at h
  | succ n ih =>
    cases i with
    | zero => simp [Memory.readRange]
    | succ i =>
      simp only [Memory.readRange, List.getElem_cons_succ]
      rw [ih (a + 1) i (by simpa using h)]
      congr 1; omega

/-- Memories that agree on a range give the same range. -/
theorem Memory.readRange_congr {m m' : Memory w} {a n : Nat} (h : ∀ i < n, m.read (a + i) = m'.read (a + i)) :
    m.readRange a n = m'.readRange a n := by
  apply List.ext_getElem (by simp)
  intro i h1 h2
  rw [Memory.getElem_readRange, Memory.getElem_readRange]
  exact h i (by simpa using h1)

/-- A range of a memory built from a list is the list's own slice, where it lies inside the list. -/
theorem Memory.readRange_ofList_slice (vs : List (BitVec w)) {a n : Nat} (h : a + n ≤ vs.length) :
    (Memory.ofList vs).readRange a n = (vs.drop a).take n := by
  apply List.ext_getElem (by simp; omega)
  intro i h1 h2
  rw [Memory.getElem_readRange, Memory.read_ofList]
  have : a + i < vs.length := by simp at h1; omega
  simp [this]

/-- What a memory was built from is read back whole. -/
@[simp] theorem Memory.readRange_ofList (vs : List (BitVec w)) :
    (Memory.ofList vs).readRange 0 vs.length = vs := by
  rw [Memory.readRange_ofList_slice vs (by omega)]; simp

/-- A slice of a range is a range. -/
theorem Memory.readRange_slice (m : Memory w) {a n i k : Nat} (h : i + k ≤ n) :
    ((m.readRange a n).drop i).take k = m.readRange (a + i) k := by
  apply List.ext_getElem (by simp; omega)
  intro j h1 h2
  rw [List.getElem_take, List.getElem_drop, Memory.getElem_readRange, Memory.getElem_readRange]
  congr 1; omega

end Sys2Proof.Machine
end

