-- ==== Sys2Proof/Laws/Operands.lean ====
section
/-! SUPPORT. The laws of integer fields, byte strings, blocks and vectors. -/

namespace Sys2Proof

@[simp] theorem length_leBytes (k v : Nat) : (leBytes k v).length = k := by
  induction k generalizing v with
  | zero => rfl
  | succ k ih => simp [leBytes, ih]

/-- The bytes of a number give it back, modulo the width written. -/
theorem leNum_leBytes (k v : Nat) : leNum (leBytes k v) = v % 256 ^ k := by
  induction k generalizing v with
  | zero => simp [leBytes, leNum, Nat.mod_one]
  | succ k ih =>
    have h : v % 256 % 2 ^ 8 = v % 256 := Nat.mod_eq_of_lt (by omega)
    rw [leBytes, leNum, ih, BitVec.toNat_ofNat, h, pow_succ, mul_comm (256 ^ k) 256, Nat.mod_mul]

theorem leNum_lt (bs : List Byte) : leNum bs < 256 ^ bs.length := by
  induction bs with
  | nil => simp [leNum]
  | cons b bs ih =>
    have := b.isLt
    rw [leNum, List.length_cons, pow_succ]
    omega

/-- A byte string is the bytes of the number it holds. -/
theorem leBytes_leNum (bs : List Byte) : leBytes bs.length (leNum bs) = bs := by
  induction bs with
  | nil => rfl
  | cons b bs ih =>
    have h1 : (b.toNat + 256 * leNum bs) % 256 = b.toNat := by have := b.isLt; omega
    have h2 : (b.toNat + 256 * leNum bs) / 256 = leNum bs := by have := b.isLt; omega
    rw [leNum, List.length_cons, leBytes, h1, h2, ih]
    simp

namespace Machine

/-! ### Vectors -/

/-- A list of the right length is kept whole in a vector. -/
@[simp] theorem toList_toVector {α : Type} {n : Nat} {d : α} {l : List α} (h : l.length = n) :
    (toVector n d l).toList = l := by
  subst h
  simp [toVector, Vector.toList]

/-! ### Pieces -/

@[simp] theorem length_pieces {α : Type} (k n : Nat) (l : List α) : (pieces k n l).length = n := by
  induction n generalizing l with
  | zero => rfl
  | succ n ih => simp [pieces, ih]

/-! ### Blocks -/

@[simp] theorem Column.length_bytes (c : Column) : c.bytes.length = 4 := rfl
@[simp] theorem Block.length_bytes (b : Block) : b.bytes.length = 16 := rfl

/-- The bytes of a block, whatever follows them, give it back. -/
@[simp] theorem Block.ofBytes_bytes_append (b : Block) (l : List Byte) : Block.ofBytes (b.bytes ++ l) = b := rfl

@[simp] theorem Block.ofBytes_bytes (b : Block) : Block.ofBytes b.bytes = b := rfl

/-- Sixteen bytes are the bytes of the block they fill. -/
theorem Block.bytes_ofBytes {bs : List Byte} (h : bs.length = 16) : (Block.ofBytes bs).bytes = bs := by
  match bs, h with
  | [_, _, _, _, _, _, _, _, _, _, _, _, _, _, _, _], _ => rfl

theorem Block.ofBytes_take (bs : List Byte) : Block.ofBytes (bs.take 16) = Block.ofBytes bs := by
  simp [Block.ofBytes, Column.ofBytes]

@[simp] theorem ofBlocks_nil : ofBlocks [] = [] := rfl
@[simp] theorem ofBlocks_cons (b : Block) (xs : List Block) : ofBlocks (b :: xs) = b.bytes ++ ofBlocks xs := rfl

@[simp] theorem length_ofBlocks (xs : List Block) : (ofBlocks xs).length = 16 * xs.length := by
  induction xs with
  | nil => rfl
  | cons b xs ih => simp [ih]; omega

@[simp] theorem length_toBlocks (bs : List Byte) : (toBlocks bs).length = bs.length / 16 := by
  simp [toBlocks]

theorem toBlocks_append (b : Block) (bs : List Byte) : toBlocks (b.bytes ++ bs) = b :: toBlocks bs := by
  have h : (b.bytes ++ bs).length / 16 = bs.length / 16 + 1 := by simp
  rw [toBlocks, h, pieces, List.map_cons, Block.ofBytes_take, Block.ofBytes_bytes_append,
    show (b.bytes ++ bs).drop 16 = bs from rfl]
  rfl

/-- The bytes of blocks give the blocks back. -/
@[simp] theorem toBlocks_ofBlocks (xs : List Block) : toBlocks (ofBlocks xs) = xs := by
  induction xs with
  | nil => rfl
  | cons b xs ih => rw [ofBlocks_cons, toBlocks_append, ih]

/-- A byte string of whole blocks is the bytes of its blocks. -/
theorem ofBlocks_toBlocks {bs : List Byte} (h : bs.length % 16 = 0) : ofBlocks (toBlocks bs) = bs := by
  obtain ⟨n, hn⟩ : ∃ n, bs.length = 16 * n := ⟨bs.length / 16, by omega⟩
  clear h
  induction n generalizing bs with
  | zero =>
    have : bs = [] := List.length_eq_zero_iff.1 (by omega)
    rw [this]; rfl
  | succ n ih =>
    have h16 : (bs.take 16).length = 16 := by simp; omega
    have hd : (bs.drop 16).length = 16 * n := by simp; omega
    have := toBlocks_append (Block.ofBytes (bs.take 16)) (bs.drop 16)
    rw [Block.bytes_ofBytes h16, List.take_append_drop] at this
    rw [this, ofBlocks_cons, ih hd, Block.bytes_ofBytes h16, List.take_append_drop]

@[simp] theorem Column.xor_xor_cancel (x y : Column) : (x.xor y).xor y = x := by
  simp [Column.xor]

@[simp] theorem Block.xor_xor_cancel (x y : Block) : (x.xor y).xor y = x := by
  simp [Block.xor]

/-! ### The operands of a command -/

@[simp] theorem State.length_passphrase (s : State) : s.passphrase.length = s.passLen.toNat := by
  simp [State.passphrase, Sampled.passphrase, State.operands]
@[simp] theorem State.length_input (s : State) : s.input.length = s.inLen.toNat := by
  simp [State.input, Sampled.input, State.operands]
@[simp] theorem State.length_output (s : State) : s.output.length = s.outLen.toNat := by simp [State.output]
@[simp] theorem State.length_record (s : State) : s.record.length = s.work.recLen.toNat := by simp [State.record]

end Machine
end Sys2Proof
end

