-- ==== Sys2Proof/Laws/Decode.lean ====
section
/-! SUPPORT. What the decoder answers on the fields that hold a discriminator (spec/30_encoding.md R85, R87, R89). -/

namespace Sys2Proof

/-- The four bytes of the Magic are the bytes of the number 0xBAADF00D, little-endian (R85). -/
theorem magic_iff {v : List Byte} (h : v.length = 4) : v = [0x0D, 0xF0, 0xAD, 0xBA] ↔ leNum v = 0xBAADF00D := by
  constructor
  · rintro rfl; decide
  · intro e
    have := leBytes_leNum v
    rw [h, e] at this
    rw [← this]; decide

/-- The decoder on a Magic field (R218). -/
theorem decode_magic {v : List Byte} (h : v.length = 4) :
    decode .magic v = if v = [0x0D, 0xF0, 0xAD, 0xBA] then .ok (.recMagic, []) else .rejected .magicMismatch := by
  have hb := leNum_lt v
  rw [h] at hb
  rw [decode, if_neg (by simp [Format.size, h])]
  have : v.take Format.magic.size = v := by rw [List.take_of_length_le]; simp [Format.size, h]
  rw [this]
  by_cases hv : v = [0x0D, 0xF0, 0xAD, 0xBA]
  · subst hv; rfl
  · rw [if_neg hv]
    rw [magic_iff h] at hv
    have : BitVec.ofNat 32 (leNum v) ≠ magicNumber := by
      intro e; apply hv
      have := congrArg BitVec.toNat e
      simp [magicNumber] at this
      omega
    simp only [decodeValue, decodeMagic, if_neg this]

/-- The decoder on an AuthLen field (R219). -/
theorem decode_authLen {v : List Byte} (h : v.length = 2) :
    decode .authLen v = if v = [0x00, 0x00] then .ok (.recAuthLenNone, []) else .rejected .authenticatorUnsupported := by
  match v, h with
  | [a, b], _ =>
    by_cases hv : [a, b] = [(0:Byte), 0]
    · cases hv; rfl
    · rw [if_neg hv]
      have h1 := a.isLt
      have h2 := b.isLt
      have : BitVec.ofNat 16 (leNum [a, b]) ≠ authLenNone := by
        intro e
        have := congrArg BitVec.toNat e
        simp only [leNum, authLenNone, BitVec.toNat_ofNat] at this
        rw [show BitVec.toNat (0x0000 : BitVec 16) = 0 from rfl] at this
        apply hv
        have ha : a = 0 := BitVec.eq_of_toNat_eq (by simp; omega)
        have hb : b = 0 := BitVec.eq_of_toNat_eq (by simp; omega)
        rw [ha, hb]
      simp [decode, Format.size, decodeValue, decodeAuthLen, this]

/-- The decoder on a Version byte (R212). -/
theorem decode_version (b : Byte) :
    decode .version [b] = if b = 2 then .ok (.envVersionV2, []) else .rejected .unsupportedVersion := by
  revert b; decide +kernel

end Sys2Proof
end

