-- ==== Sys2Proof/Laws/State.lean ====
section
/-! SUPPORT. One lemma per field per update of the state: what each named update writes, and what it leaves unchanged. -/

namespace Sys2Proof.Machine

variable (s : State)

@[simp] theorem State.start_build : (s.start).build = s.build := (rfl)
@[simp] theorem State.start_cmd : (s.start).cmd = s.cmd := (rfl)
@[simp] theorem State.start_st : (s.start).st = .busy := (rfl)
@[simp] theorem State.start_err : (s.start).err = s.err := (rfl)
@[simp] theorem State.start_passLen : (s.start).passLen = s.passLen := (rfl)
@[simp] theorem State.start_inLen : (s.start).inLen = s.inLen := (rfl)
@[simp] theorem State.start_outLen : (s.start).outLen = s.outLen := (rfl)
@[simp] theorem State.start_pass : (s.start).pass = s.pass := (rfl)
@[simp] theorem State.start_inBuf : (s.start).inBuf = s.inBuf := (rfl)
@[simp] theorem State.start_out : (s.start).out = s.out := (rfl)
@[simp] theorem State.start_stepNo : (s.start).stepNo = .s0 := (rfl)
@[simp] theorem State.start_work : (s.start).work = { s.work with ops := s.operands } := (rfl)
@[simp] theorem State.start_entropy : (s.start).entropy = s.entropy := (rfl)
@[simp] theorem State.start_hostQueue : (s.start).hostQueue = s.hostQueue := (rfl)
@[simp] theorem State.start_answer : (s.start).answer = s.answer := (rfl)
@[simp] theorem State.start_freeReads : (s.start).freeReads = s.freeReads := (rfl)

@[simp] theorem State.goTo_build (n : StepNo) : (s.goTo n).build = s.build := (rfl)
@[simp] theorem State.goTo_cmd (n : StepNo) : (s.goTo n).cmd = s.cmd := (rfl)
@[simp] theorem State.goTo_st (n : StepNo) : (s.goTo n).st = s.st := (rfl)
@[simp] theorem State.goTo_err (n : StepNo) : (s.goTo n).err = s.err := (rfl)
@[simp] theorem State.goTo_passLen (n : StepNo) : (s.goTo n).passLen = s.passLen := (rfl)
@[simp] theorem State.goTo_inLen (n : StepNo) : (s.goTo n).inLen = s.inLen := (rfl)
@[simp] theorem State.goTo_outLen (n : StepNo) : (s.goTo n).outLen = s.outLen := (rfl)
@[simp] theorem State.goTo_pass (n : StepNo) : (s.goTo n).pass = s.pass := (rfl)
@[simp] theorem State.goTo_inBuf (n : StepNo) : (s.goTo n).inBuf = s.inBuf := (rfl)
@[simp] theorem State.goTo_out (n : StepNo) : (s.goTo n).out = s.out := (rfl)
@[simp] theorem State.goTo_stepNo (n : StepNo) : (s.goTo n).stepNo = n := (rfl)
@[simp] theorem State.goTo_work (n : StepNo) : (s.goTo n).work = s.work := (rfl)
@[simp] theorem State.goTo_entropy (n : StepNo) : (s.goTo n).entropy = s.entropy := (rfl)
@[simp] theorem State.goTo_hostQueue (n : StepNo) : (s.goTo n).hostQueue = s.hostQueue := (rfl)
@[simp] theorem State.goTo_answer (n : StepNo) : (s.goTo n).answer = s.answer := (rfl)
@[simp] theorem State.goTo_freeReads (n : StepNo) : (s.goTo n).freeReads = s.freeReads := (rfl)

@[simp] theorem State.setWork_build (w : Work) (n : StepNo) : (s.setWork w n).build = s.build := (rfl)
@[simp] theorem State.setWork_cmd (w : Work) (n : StepNo) : (s.setWork w n).cmd = s.cmd := (rfl)
@[simp] theorem State.setWork_st (w : Work) (n : StepNo) : (s.setWork w n).st = s.st := (rfl)
@[simp] theorem State.setWork_err (w : Work) (n : StepNo) : (s.setWork w n).err = s.err := (rfl)
@[simp] theorem State.setWork_passLen (w : Work) (n : StepNo) : (s.setWork w n).passLen = s.passLen := (rfl)
@[simp] theorem State.setWork_inLen (w : Work) (n : StepNo) : (s.setWork w n).inLen = s.inLen := (rfl)
@[simp] theorem State.setWork_outLen (w : Work) (n : StepNo) : (s.setWork w n).outLen = s.outLen := (rfl)
@[simp] theorem State.setWork_pass (w : Work) (n : StepNo) : (s.setWork w n).pass = s.pass := (rfl)
@[simp] theorem State.setWork_inBuf (w : Work) (n : StepNo) : (s.setWork w n).inBuf = s.inBuf := (rfl)
@[simp] theorem State.setWork_out (w : Work) (n : StepNo) : (s.setWork w n).out = s.out := (rfl)
@[simp] theorem State.setWork_stepNo (w : Work) (n : StepNo) : (s.setWork w n).stepNo = n := (rfl)
@[simp] theorem State.setWork_work (w : Work) (n : StepNo) : (s.setWork w n).work = w := (rfl)
@[simp] theorem State.setWork_entropy (w : Work) (n : StepNo) : (s.setWork w n).entropy = s.entropy := (rfl)
@[simp] theorem State.setWork_hostQueue (w : Work) (n : StepNo) : (s.setWork w n).hostQueue = s.hostQueue := (rfl)
@[simp] theorem State.setWork_answer (w : Work) (n : StepNo) : (s.setWork w n).answer = s.answer := (rfl)
@[simp] theorem State.setWork_freeReads (w : Work) (n : StepNo) : (s.setWork w n).freeReads = s.freeReads := (rfl)

@[simp] theorem State.afterDraw_build : (s.afterDraw).build = s.build := (rfl)
@[simp] theorem State.afterDraw_cmd : (s.afterDraw).cmd = s.cmd := (rfl)
@[simp] theorem State.afterDraw_st : (s.afterDraw).st = s.st := (rfl)
@[simp] theorem State.afterDraw_err : (s.afterDraw).err = s.err := (rfl)
@[simp] theorem State.afterDraw_passLen : (s.afterDraw).passLen = s.passLen := (rfl)
@[simp] theorem State.afterDraw_inLen : (s.afterDraw).inLen = s.inLen := (rfl)
@[simp] theorem State.afterDraw_outLen : (s.afterDraw).outLen = s.outLen := (rfl)
@[simp] theorem State.afterDraw_pass : (s.afterDraw).pass = s.pass := (rfl)
@[simp] theorem State.afterDraw_inBuf : (s.afterDraw).inBuf = s.inBuf := (rfl)
@[simp] theorem State.afterDraw_out : (s.afterDraw).out = s.out := (rfl)
@[simp] theorem State.afterDraw_stepNo : (s.afterDraw).stepNo = s.stepNo := (rfl)
@[simp] theorem State.afterDraw_work : (s.afterDraw).work = s.work := (rfl)
@[simp] theorem State.afterDraw_entropy : (s.afterDraw).entropy = ⟨s.entropy.fixed.tail, s.entropy.drawn + 1⟩ := (rfl)
@[simp] theorem State.afterDraw_hostQueue : (s.afterDraw).hostQueue = s.hostQueue := (rfl)
@[simp] theorem State.afterDraw_answer : (s.afterDraw).answer = s.answer := (rfl)
@[simp] theorem State.afterDraw_freeReads : (s.afterDraw).freeReads = s.freeReads := (rfl)

@[simp] theorem State.complete_build (o : List Byte) : (s.complete o).build = s.build := (rfl)
@[simp] theorem State.complete_cmd (o : List Byte) : (s.complete o).cmd = s.cmd := (rfl)
@[simp] theorem State.complete_st (o : List Byte) : (s.complete o).st = .done := (rfl)
@[simp] theorem State.complete_err (o : List Byte) : (s.complete o).err = .ok := (rfl)
@[simp] theorem State.complete_passLen (o : List Byte) : (s.complete o).passLen = s.passLen := (rfl)
@[simp] theorem State.complete_inLen (o : List Byte) : (s.complete o).inLen = s.inLen := (rfl)
@[simp] theorem State.complete_outLen (o : List Byte) : (s.complete o).outLen = BitVec.ofNat 32 o.length := (rfl)
@[simp] theorem State.complete_pass (o : List Byte) : (s.complete o).pass = s.pass := (rfl)
@[simp] theorem State.complete_inBuf (o : List Byte) : (s.complete o).inBuf = s.inBuf := (rfl)
@[simp] theorem State.complete_out (o : List Byte) : (s.complete o).out = Memory.ofList o := (rfl)
@[simp] theorem State.complete_stepNo (o : List Byte) : (s.complete o).stepNo = .s0 := (rfl)
@[simp] theorem State.complete_work (o : List Byte) : (s.complete o).work = Work.zero := (rfl)
@[simp] theorem State.complete_entropy (o : List Byte) : (s.complete o).entropy = s.entropy := (rfl)
@[simp] theorem State.complete_hostQueue (o : List Byte) : (s.complete o).hostQueue = s.hostQueue := (rfl)
@[simp] theorem State.complete_answer (o : List Byte) : (s.complete o).answer = s.answer := (rfl)
@[simp] theorem State.complete_freeReads (o : List Byte) : (s.complete o).freeReads = s.freeReads := (rfl)

@[simp] theorem State.raise_build (e : ErrCode) : (s.raise e).build = s.build := (rfl)
@[simp] theorem State.raise_cmd (e : ErrCode) : (s.raise e).cmd = s.cmd := (rfl)
@[simp] theorem State.raise_st (e : ErrCode) : (s.raise e).st = .done := (rfl)
@[simp] theorem State.raise_err (e : ErrCode) : (s.raise e).err = e := (rfl)
@[simp] theorem State.raise_passLen (e : ErrCode) : (s.raise e).passLen = s.passLen := (rfl)
@[simp] theorem State.raise_inLen (e : ErrCode) : (s.raise e).inLen = s.inLen := (rfl)
@[simp] theorem State.raise_outLen (e : ErrCode) : (s.raise e).outLen = 0 := (rfl)
@[simp] theorem State.raise_pass (e : ErrCode) : (s.raise e).pass = s.pass := (rfl)
@[simp] theorem State.raise_inBuf (e : ErrCode) : (s.raise e).inBuf = s.inBuf := (rfl)
@[simp] theorem State.raise_out (e : ErrCode) : (s.raise e).out = [] := (rfl)
@[simp] theorem State.raise_stepNo (e : ErrCode) : (s.raise e).stepNo = .s0 := (rfl)
@[simp] theorem State.raise_work (e : ErrCode) : (s.raise e).work = Work.zero := (rfl)
@[simp] theorem State.raise_entropy (e : ErrCode) : (s.raise e).entropy = s.entropy := (rfl)
@[simp] theorem State.raise_hostQueue (e : ErrCode) : (s.raise e).hostQueue = s.hostQueue := (rfl)
@[simp] theorem State.raise_answer (e : ErrCode) : (s.raise e).answer = s.answer := (rfl)
@[simp] theorem State.raise_freeReads (e : ErrCode) : (s.raise e).freeReads = s.freeReads := (rfl)

@[simp] theorem State.hostTook_build (q : List HostAccess) : (s.hostTook q).build = s.build := (rfl)
@[simp] theorem State.hostTook_cmd (q : List HostAccess) : (s.hostTook q).cmd = s.cmd := (rfl)
@[simp] theorem State.hostTook_st (q : List HostAccess) : (s.hostTook q).st = s.st := (rfl)
@[simp] theorem State.hostTook_err (q : List HostAccess) : (s.hostTook q).err = s.err := (rfl)
@[simp] theorem State.hostTook_passLen (q : List HostAccess) : (s.hostTook q).passLen = s.passLen := (rfl)
@[simp] theorem State.hostTook_inLen (q : List HostAccess) : (s.hostTook q).inLen = s.inLen := (rfl)
@[simp] theorem State.hostTook_outLen (q : List HostAccess) : (s.hostTook q).outLen = s.outLen := (rfl)
@[simp] theorem State.hostTook_pass (q : List HostAccess) : (s.hostTook q).pass = s.pass := (rfl)
@[simp] theorem State.hostTook_inBuf (q : List HostAccess) : (s.hostTook q).inBuf = s.inBuf := (rfl)
@[simp] theorem State.hostTook_out (q : List HostAccess) : (s.hostTook q).out = s.out := (rfl)
@[simp] theorem State.hostTook_stepNo (q : List HostAccess) : (s.hostTook q).stepNo = s.stepNo := (rfl)
@[simp] theorem State.hostTook_work (q : List HostAccess) : (s.hostTook q).work = s.work := (rfl)
@[simp] theorem State.hostTook_entropy (q : List HostAccess) : (s.hostTook q).entropy = s.entropy := (rfl)
@[simp] theorem State.hostTook_hostQueue (q : List HostAccess) : (s.hostTook q).hostQueue = q := (rfl)
@[simp] theorem State.hostTook_answer (q : List HostAccess) : (s.hostTook q).answer = none := (rfl)
@[simp] theorem State.hostTook_freeReads (q : List HostAccess) : (s.hostTook q).freeReads = s.freeReads := (rfl)

@[simp] theorem State.answered_build (v : Word) : (s.answered v).build = s.build := (rfl)
@[simp] theorem State.answered_cmd (v : Word) : (s.answered v).cmd = s.cmd := (rfl)
@[simp] theorem State.answered_st (v : Word) : (s.answered v).st = s.st := (rfl)
@[simp] theorem State.answered_err (v : Word) : (s.answered v).err = s.err := (rfl)
@[simp] theorem State.answered_passLen (v : Word) : (s.answered v).passLen = s.passLen := (rfl)
@[simp] theorem State.answered_inLen (v : Word) : (s.answered v).inLen = s.inLen := (rfl)
@[simp] theorem State.answered_outLen (v : Word) : (s.answered v).outLen = s.outLen := (rfl)
@[simp] theorem State.answered_pass (v : Word) : (s.answered v).pass = s.pass := (rfl)
@[simp] theorem State.answered_inBuf (v : Word) : (s.answered v).inBuf = s.inBuf := (rfl)
@[simp] theorem State.answered_out (v : Word) : (s.answered v).out = s.out := (rfl)
@[simp] theorem State.answered_stepNo (v : Word) : (s.answered v).stepNo = s.stepNo := (rfl)
@[simp] theorem State.answered_work (v : Word) : (s.answered v).work = s.work := (rfl)
@[simp] theorem State.answered_entropy (v : Word) : (s.answered v).entropy = s.entropy := (rfl)
@[simp] theorem State.answered_hostQueue (v : Word) : (s.answered v).hostQueue = s.hostQueue := (rfl)
@[simp] theorem State.answered_answer (v : Word) : (s.answered v).answer = some v := (rfl)
@[simp] theorem State.answered_freeReads (v : Word) : (s.answered v).freeReads = s.freeReads := (rfl)

@[simp] theorem State.freeRead_build : (s.freeRead).build = s.build := (rfl)
@[simp] theorem State.freeRead_cmd : (s.freeRead).cmd = s.cmd := (rfl)
@[simp] theorem State.freeRead_st : (s.freeRead).st = s.st := (rfl)
@[simp] theorem State.freeRead_err : (s.freeRead).err = s.err := (rfl)
@[simp] theorem State.freeRead_passLen : (s.freeRead).passLen = s.passLen := (rfl)
@[simp] theorem State.freeRead_inLen : (s.freeRead).inLen = s.inLen := (rfl)
@[simp] theorem State.freeRead_outLen : (s.freeRead).outLen = s.outLen := (rfl)
@[simp] theorem State.freeRead_pass : (s.freeRead).pass = s.pass := (rfl)
@[simp] theorem State.freeRead_inBuf : (s.freeRead).inBuf = s.inBuf := (rfl)
@[simp] theorem State.freeRead_out : (s.freeRead).out = s.out := (rfl)
@[simp] theorem State.freeRead_stepNo : (s.freeRead).stepNo = s.stepNo := (rfl)
@[simp] theorem State.freeRead_work : (s.freeRead).work = s.work := (rfl)
@[simp] theorem State.freeRead_entropy : (s.freeRead).entropy = s.entropy := (rfl)
@[simp] theorem State.freeRead_hostQueue : (s.freeRead).hostQueue = s.hostQueue := (rfl)
@[simp] theorem State.freeRead_answer : (s.freeRead).answer = s.answer := (rfl)
@[simp] theorem State.freeRead_freeReads : (s.freeRead).freeReads = s.freeReads + 1 := (rfl)

@[simp] theorem State.setCmd_build (w : Word) : (s.setCmd w).build = s.build := (rfl)
@[simp] theorem State.setCmd_cmd (w : Word) : (s.setCmd w).cmd = w := (rfl)
@[simp] theorem State.setCmd_st (w : Word) : (s.setCmd w).st = s.st := (rfl)
@[simp] theorem State.setCmd_err (w : Word) : (s.setCmd w).err = s.err := (rfl)
@[simp] theorem State.setCmd_passLen (w : Word) : (s.setCmd w).passLen = s.passLen := (rfl)
@[simp] theorem State.setCmd_inLen (w : Word) : (s.setCmd w).inLen = s.inLen := (rfl)
@[simp] theorem State.setCmd_outLen (w : Word) : (s.setCmd w).outLen = s.outLen := (rfl)
@[simp] theorem State.setCmd_pass (w : Word) : (s.setCmd w).pass = s.pass := (rfl)
@[simp] theorem State.setCmd_inBuf (w : Word) : (s.setCmd w).inBuf = s.inBuf := (rfl)
@[simp] theorem State.setCmd_out (w : Word) : (s.setCmd w).out = s.out := (rfl)
@[simp] theorem State.setCmd_stepNo (w : Word) : (s.setCmd w).stepNo = s.stepNo := (rfl)
@[simp] theorem State.setCmd_work (w : Word) : (s.setCmd w).work = s.work := (rfl)
@[simp] theorem State.setCmd_entropy (w : Word) : (s.setCmd w).entropy = s.entropy := (rfl)
@[simp] theorem State.setCmd_hostQueue (w : Word) : (s.setCmd w).hostQueue = s.hostQueue := (rfl)
@[simp] theorem State.setCmd_answer (w : Word) : (s.setCmd w).answer = s.answer := (rfl)
@[simp] theorem State.setCmd_freeReads (w : Word) : (s.setCmd w).freeReads = s.freeReads := (rfl)

@[simp] theorem State.setPassLen_build (v : Word) : (s.setPassLen v).build = s.build := (rfl)
@[simp] theorem State.setPassLen_cmd (v : Word) : (s.setPassLen v).cmd = s.cmd := (rfl)
@[simp] theorem State.setPassLen_st (v : Word) : (s.setPassLen v).st = s.st := (rfl)
@[simp] theorem State.setPassLen_err (v : Word) : (s.setPassLen v).err = s.err := (rfl)
@[simp] theorem State.setPassLen_passLen (v : Word) : (s.setPassLen v).passLen = v := (rfl)
@[simp] theorem State.setPassLen_inLen (v : Word) : (s.setPassLen v).inLen = s.inLen := (rfl)
@[simp] theorem State.setPassLen_outLen (v : Word) : (s.setPassLen v).outLen = s.outLen := (rfl)
@[simp] theorem State.setPassLen_pass (v : Word) : (s.setPassLen v).pass = s.pass := (rfl)
@[simp] theorem State.setPassLen_inBuf (v : Word) : (s.setPassLen v).inBuf = s.inBuf := (rfl)
@[simp] theorem State.setPassLen_out (v : Word) : (s.setPassLen v).out = s.out := (rfl)
@[simp] theorem State.setPassLen_stepNo (v : Word) : (s.setPassLen v).stepNo = s.stepNo := (rfl)
@[simp] theorem State.setPassLen_work (v : Word) : (s.setPassLen v).work = s.work := (rfl)
@[simp] theorem State.setPassLen_entropy (v : Word) : (s.setPassLen v).entropy = s.entropy := (rfl)
@[simp] theorem State.setPassLen_hostQueue (v : Word) : (s.setPassLen v).hostQueue = s.hostQueue := (rfl)
@[simp] theorem State.setPassLen_answer (v : Word) : (s.setPassLen v).answer = s.answer := (rfl)
@[simp] theorem State.setPassLen_freeReads (v : Word) : (s.setPassLen v).freeReads = s.freeReads := (rfl)

@[simp] theorem State.setInLen_build (v : Word) : (s.setInLen v).build = s.build := (rfl)
@[simp] theorem State.setInLen_cmd (v : Word) : (s.setInLen v).cmd = s.cmd := (rfl)
@[simp] theorem State.setInLen_st (v : Word) : (s.setInLen v).st = s.st := (rfl)
@[simp] theorem State.setInLen_err (v : Word) : (s.setInLen v).err = s.err := (rfl)
@[simp] theorem State.setInLen_passLen (v : Word) : (s.setInLen v).passLen = s.passLen := (rfl)
@[simp] theorem State.setInLen_inLen (v : Word) : (s.setInLen v).inLen = v := (rfl)
@[simp] theorem State.setInLen_outLen (v : Word) : (s.setInLen v).outLen = s.outLen := (rfl)
@[simp] theorem State.setInLen_pass (v : Word) : (s.setInLen v).pass = s.pass := (rfl)
@[simp] theorem State.setInLen_inBuf (v : Word) : (s.setInLen v).inBuf = s.inBuf := (rfl)
@[simp] theorem State.setInLen_out (v : Word) : (s.setInLen v).out = s.out := (rfl)
@[simp] theorem State.setInLen_stepNo (v : Word) : (s.setInLen v).stepNo = s.stepNo := (rfl)
@[simp] theorem State.setInLen_work (v : Word) : (s.setInLen v).work = s.work := (rfl)
@[simp] theorem State.setInLen_entropy (v : Word) : (s.setInLen v).entropy = s.entropy := (rfl)
@[simp] theorem State.setInLen_hostQueue (v : Word) : (s.setInLen v).hostQueue = s.hostQueue := (rfl)
@[simp] theorem State.setInLen_answer (v : Word) : (s.setInLen v).answer = s.answer := (rfl)
@[simp] theorem State.setInLen_freeReads (v : Word) : (s.setInLen v).freeReads = s.freeReads := (rfl)

@[simp] theorem State.setPass_build (i : Nat) (v : CodePoint) : (s.setPass i v).build = s.build := (rfl)
@[simp] theorem State.setPass_cmd (i : Nat) (v : CodePoint) : (s.setPass i v).cmd = s.cmd := (rfl)
@[simp] theorem State.setPass_st (i : Nat) (v : CodePoint) : (s.setPass i v).st = s.st := (rfl)
@[simp] theorem State.setPass_err (i : Nat) (v : CodePoint) : (s.setPass i v).err = s.err := (rfl)
@[simp] theorem State.setPass_passLen (i : Nat) (v : CodePoint) : (s.setPass i v).passLen = s.passLen := (rfl)
@[simp] theorem State.setPass_inLen (i : Nat) (v : CodePoint) : (s.setPass i v).inLen = s.inLen := (rfl)
@[simp] theorem State.setPass_outLen (i : Nat) (v : CodePoint) : (s.setPass i v).outLen = s.outLen := (rfl)
@[simp] theorem State.setPass_pass (i : Nat) (v : CodePoint) : (s.setPass i v).pass = s.pass.write i v := (rfl)
@[simp] theorem State.setPass_inBuf (i : Nat) (v : CodePoint) : (s.setPass i v).inBuf = s.inBuf := (rfl)
@[simp] theorem State.setPass_out (i : Nat) (v : CodePoint) : (s.setPass i v).out = s.out := (rfl)
@[simp] theorem State.setPass_stepNo (i : Nat) (v : CodePoint) : (s.setPass i v).stepNo = s.stepNo := (rfl)
@[simp] theorem State.setPass_work (i : Nat) (v : CodePoint) : (s.setPass i v).work = s.work := (rfl)
@[simp] theorem State.setPass_entropy (i : Nat) (v : CodePoint) : (s.setPass i v).entropy = s.entropy := (rfl)
@[simp] theorem State.setPass_hostQueue (i : Nat) (v : CodePoint) : (s.setPass i v).hostQueue = s.hostQueue := (rfl)
@[simp] theorem State.setPass_answer (i : Nat) (v : CodePoint) : (s.setPass i v).answer = s.answer := (rfl)
@[simp] theorem State.setPass_freeReads (i : Nat) (v : CodePoint) : (s.setPass i v).freeReads = s.freeReads := (rfl)

@[simp] theorem State.setIn_build (i : Nat) (v : Byte) : (s.setIn i v).build = s.build := (rfl)
@[simp] theorem State.setIn_cmd (i : Nat) (v : Byte) : (s.setIn i v).cmd = s.cmd := (rfl)
@[simp] theorem State.setIn_st (i : Nat) (v : Byte) : (s.setIn i v).st = s.st := (rfl)
@[simp] theorem State.setIn_err (i : Nat) (v : Byte) : (s.setIn i v).err = s.err := (rfl)
@[simp] theorem State.setIn_passLen (i : Nat) (v : Byte) : (s.setIn i v).passLen = s.passLen := (rfl)
@[simp] theorem State.setIn_inLen (i : Nat) (v : Byte) : (s.setIn i v).inLen = s.inLen := (rfl)
@[simp] theorem State.setIn_outLen (i : Nat) (v : Byte) : (s.setIn i v).outLen = s.outLen := (rfl)
@[simp] theorem State.setIn_pass (i : Nat) (v : Byte) : (s.setIn i v).pass = s.pass := (rfl)
@[simp] theorem State.setIn_inBuf (i : Nat) (v : Byte) : (s.setIn i v).inBuf = s.inBuf.write i v := (rfl)
@[simp] theorem State.setIn_out (i : Nat) (v : Byte) : (s.setIn i v).out = s.out := (rfl)
@[simp] theorem State.setIn_stepNo (i : Nat) (v : Byte) : (s.setIn i v).stepNo = s.stepNo := (rfl)
@[simp] theorem State.setIn_work (i : Nat) (v : Byte) : (s.setIn i v).work = s.work := (rfl)
@[simp] theorem State.setIn_entropy (i : Nat) (v : Byte) : (s.setIn i v).entropy = s.entropy := (rfl)
@[simp] theorem State.setIn_hostQueue (i : Nat) (v : Byte) : (s.setIn i v).hostQueue = s.hostQueue := (rfl)
@[simp] theorem State.setIn_answer (i : Nat) (v : Byte) : (s.setIn i v).answer = s.answer := (rfl)
@[simp] theorem State.setIn_freeReads (i : Nat) (v : Byte) : (s.setIn i v).freeReads = s.freeReads := (rfl)

@[simp] theorem State.setOps_build (o : Sampled) : (s.setOps o).build = s.build := (rfl)
@[simp] theorem State.setOps_cmd (o : Sampled) : (s.setOps o).cmd = s.cmd := (rfl)
@[simp] theorem State.setOps_st (o : Sampled) : (s.setOps o).st = s.st := (rfl)
@[simp] theorem State.setOps_err (o : Sampled) : (s.setOps o).err = s.err := (rfl)
@[simp] theorem State.setOps_passLen (o : Sampled) : (s.setOps o).passLen = s.passLen := (rfl)
@[simp] theorem State.setOps_inLen (o : Sampled) : (s.setOps o).inLen = s.inLen := (rfl)
@[simp] theorem State.setOps_outLen (o : Sampled) : (s.setOps o).outLen = s.outLen := (rfl)
@[simp] theorem State.setOps_pass (o : Sampled) : (s.setOps o).pass = s.pass := (rfl)
@[simp] theorem State.setOps_inBuf (o : Sampled) : (s.setOps o).inBuf = s.inBuf := (rfl)
@[simp] theorem State.setOps_out (o : Sampled) : (s.setOps o).out = s.out := (rfl)
@[simp] theorem State.setOps_stepNo (o : Sampled) : (s.setOps o).stepNo = s.stepNo := (rfl)
@[simp] theorem State.setOps_work (o : Sampled) : (s.setOps o).work = { s.work with ops := o } := (rfl)
@[simp] theorem State.setOps_entropy (o : Sampled) : (s.setOps o).entropy = s.entropy := (rfl)
@[simp] theorem State.setOps_hostQueue (o : Sampled) : (s.setOps o).hostQueue = s.hostQueue := (rfl)
@[simp] theorem State.setOps_answer (o : Sampled) : (s.setOps o).answer = s.answer := (rfl)
@[simp] theorem State.setOps_freeReads (o : Sampled) : (s.setOps o).freeReads = s.freeReads := (rfl)

@[simp] theorem State.disturbPassLen_build : (s.disturbPassLen).build = s.build := (rfl)
@[simp] theorem State.disturbPassLen_cmd : (s.disturbPassLen).cmd = s.cmd := (rfl)
@[simp] theorem State.disturbPassLen_st : (s.disturbPassLen).st = s.st := (rfl)
@[simp] theorem State.disturbPassLen_err : (s.disturbPassLen).err = s.err := (rfl)
@[simp] theorem State.disturbPassLen_passLen : (s.disturbPassLen).passLen = s.passLen := (rfl)
@[simp] theorem State.disturbPassLen_inLen : (s.disturbPassLen).inLen = s.inLen := (rfl)
@[simp] theorem State.disturbPassLen_outLen : (s.disturbPassLen).outLen = s.outLen := (rfl)
@[simp] theorem State.disturbPassLen_pass : (s.disturbPassLen).pass = s.pass := (rfl)
@[simp] theorem State.disturbPassLen_inBuf : (s.disturbPassLen).inBuf = s.inBuf := (rfl)
@[simp] theorem State.disturbPassLen_out : (s.disturbPassLen).out = s.out := (rfl)
@[simp] theorem State.disturbPassLen_stepNo : (s.disturbPassLen).stepNo = s.stepNo := (rfl)
@[simp] theorem State.disturbPassLen_work : (s.disturbPassLen).work = 
    { s.work with ops := { s.work.ops with passLen := Config.freeOperand s.freeReads } } := (rfl)
@[simp] theorem State.disturbPassLen_entropy : (s.disturbPassLen).entropy = s.entropy := (rfl)
@[simp] theorem State.disturbPassLen_hostQueue : (s.disturbPassLen).hostQueue = s.hostQueue := (rfl)
@[simp] theorem State.disturbPassLen_answer : (s.disturbPassLen).answer = s.answer := (rfl)
@[simp] theorem State.disturbPassLen_freeReads : (s.disturbPassLen).freeReads = s.freeReads + 1 := (rfl)

@[simp] theorem State.disturbInLen_build : (s.disturbInLen).build = s.build := (rfl)
@[simp] theorem State.disturbInLen_cmd : (s.disturbInLen).cmd = s.cmd := (rfl)
@[simp] theorem State.disturbInLen_st : (s.disturbInLen).st = s.st := (rfl)
@[simp] theorem State.disturbInLen_err : (s.disturbInLen).err = s.err := (rfl)
@[simp] theorem State.disturbInLen_passLen : (s.disturbInLen).passLen = s.passLen := (rfl)
@[simp] theorem State.disturbInLen_inLen : (s.disturbInLen).inLen = s.inLen := (rfl)
@[simp] theorem State.disturbInLen_outLen : (s.disturbInLen).outLen = s.outLen := (rfl)
@[simp] theorem State.disturbInLen_pass : (s.disturbInLen).pass = s.pass := (rfl)
@[simp] theorem State.disturbInLen_inBuf : (s.disturbInLen).inBuf = s.inBuf := (rfl)
@[simp] theorem State.disturbInLen_out : (s.disturbInLen).out = s.out := (rfl)
@[simp] theorem State.disturbInLen_stepNo : (s.disturbInLen).stepNo = s.stepNo := (rfl)
@[simp] theorem State.disturbInLen_work : (s.disturbInLen).work = 
    { s.work with ops := { s.work.ops with inLen := Config.freeOperand s.freeReads } } := (rfl)
@[simp] theorem State.disturbInLen_entropy : (s.disturbInLen).entropy = s.entropy := (rfl)
@[simp] theorem State.disturbInLen_hostQueue : (s.disturbInLen).hostQueue = s.hostQueue := (rfl)
@[simp] theorem State.disturbInLen_answer : (s.disturbInLen).answer = s.answer := (rfl)
@[simp] theorem State.disturbInLen_freeReads : (s.disturbInLen).freeReads = s.freeReads + 1 := (rfl)

@[simp] theorem State.disturbPass_build (i : Nat) : (s.disturbPass i).build = s.build := (rfl)
@[simp] theorem State.disturbPass_cmd (i : Nat) : (s.disturbPass i).cmd = s.cmd := (rfl)
@[simp] theorem State.disturbPass_st (i : Nat) : (s.disturbPass i).st = s.st := (rfl)
@[simp] theorem State.disturbPass_err (i : Nat) : (s.disturbPass i).err = s.err := (rfl)
@[simp] theorem State.disturbPass_passLen (i : Nat) : (s.disturbPass i).passLen = s.passLen := (rfl)
@[simp] theorem State.disturbPass_inLen (i : Nat) : (s.disturbPass i).inLen = s.inLen := (rfl)
@[simp] theorem State.disturbPass_outLen (i : Nat) : (s.disturbPass i).outLen = s.outLen := (rfl)
@[simp] theorem State.disturbPass_pass (i : Nat) : (s.disturbPass i).pass = s.pass := (rfl)
@[simp] theorem State.disturbPass_inBuf (i : Nat) : (s.disturbPass i).inBuf = s.inBuf := (rfl)
@[simp] theorem State.disturbPass_out (i : Nat) : (s.disturbPass i).out = s.out := (rfl)
@[simp] theorem State.disturbPass_stepNo (i : Nat) : (s.disturbPass i).stepNo = s.stepNo := (rfl)
@[simp] theorem State.disturbPass_work (i : Nat) : (s.disturbPass i).work = 
    { s.work with ops := { s.work.ops with pass := s.work.ops.pass.write i ((Config.freeOperand s.freeReads).extractLsb' 0 21) } } := (rfl)
@[simp] theorem State.disturbPass_entropy (i : Nat) : (s.disturbPass i).entropy = s.entropy := (rfl)
@[simp] theorem State.disturbPass_hostQueue (i : Nat) : (s.disturbPass i).hostQueue = s.hostQueue := (rfl)
@[simp] theorem State.disturbPass_answer (i : Nat) : (s.disturbPass i).answer = s.answer := (rfl)
@[simp] theorem State.disturbPass_freeReads (i : Nat) : (s.disturbPass i).freeReads = s.freeReads + 1 := (rfl)

@[simp] theorem State.disturbIn_build (i : Nat) : (s.disturbIn i).build = s.build := (rfl)
@[simp] theorem State.disturbIn_cmd (i : Nat) : (s.disturbIn i).cmd = s.cmd := (rfl)
@[simp] theorem State.disturbIn_st (i : Nat) : (s.disturbIn i).st = s.st := (rfl)
@[simp] theorem State.disturbIn_err (i : Nat) : (s.disturbIn i).err = s.err := (rfl)
@[simp] theorem State.disturbIn_passLen (i : Nat) : (s.disturbIn i).passLen = s.passLen := (rfl)
@[simp] theorem State.disturbIn_inLen (i : Nat) : (s.disturbIn i).inLen = s.inLen := (rfl)
@[simp] theorem State.disturbIn_outLen (i : Nat) : (s.disturbIn i).outLen = s.outLen := (rfl)
@[simp] theorem State.disturbIn_pass (i : Nat) : (s.disturbIn i).pass = s.pass := (rfl)
@[simp] theorem State.disturbIn_inBuf (i : Nat) : (s.disturbIn i).inBuf = s.inBuf := (rfl)
@[simp] theorem State.disturbIn_out (i : Nat) : (s.disturbIn i).out = s.out := (rfl)
@[simp] theorem State.disturbIn_stepNo (i : Nat) : (s.disturbIn i).stepNo = s.stepNo := (rfl)
@[simp] theorem State.disturbIn_work (i : Nat) : (s.disturbIn i).work = 
    { s.work with ops := { s.work.ops with inBuf := s.work.ops.inBuf.write i ((Config.freeOperand s.freeReads).extractLsb' 0 8) } } := (rfl)
@[simp] theorem State.disturbIn_entropy (i : Nat) : (s.disturbIn i).entropy = s.entropy := (rfl)
@[simp] theorem State.disturbIn_hostQueue (i : Nat) : (s.disturbIn i).hostQueue = s.hostQueue := (rfl)
@[simp] theorem State.disturbIn_answer (i : Nat) : (s.disturbIn i).answer = s.answer := (rfl)
@[simp] theorem State.disturbIn_freeReads (i : Nat) : (s.disturbIn i).freeReads = s.freeReads + 1 := (rfl)

@[simp] theorem State.assertReset_build : (s.assertReset).build = s.build := (rfl)
@[simp] theorem State.assertReset_cmd : (s.assertReset).cmd = 0 := (rfl)
@[simp] theorem State.assertReset_st : (s.assertReset).st = .idle := (rfl)
@[simp] theorem State.assertReset_err : (s.assertReset).err = .ok := (rfl)
@[simp] theorem State.assertReset_passLen : (s.assertReset).passLen = 0 := (rfl)
@[simp] theorem State.assertReset_inLen : (s.assertReset).inLen = 0 := (rfl)
@[simp] theorem State.assertReset_outLen : (s.assertReset).outLen = 0 := (rfl)
@[simp] theorem State.assertReset_pass : (s.assertReset).pass = [] := (rfl)
@[simp] theorem State.assertReset_inBuf : (s.assertReset).inBuf = [] := (rfl)
@[simp] theorem State.assertReset_out : (s.assertReset).out = [] := (rfl)
@[simp] theorem State.assertReset_stepNo : (s.assertReset).stepNo = .s0 := (rfl)
@[simp] theorem State.assertReset_work : (s.assertReset).work = Work.zero := (rfl)
@[simp] theorem State.assertReset_entropy : (s.assertReset).entropy = s.entropy := (rfl)
@[simp] theorem State.assertReset_hostQueue : (s.assertReset).hostQueue = s.hostQueue := (rfl)
@[simp] theorem State.assertReset_answer : (s.assertReset).answer = none := (rfl)
@[simp] theorem State.assertReset_freeReads : (s.assertReset).freeReads = s.freeReads := (rfl)

@[simp] theorem State.resetOf_build (c : Config) : (State.resetOf c).build = c := (rfl)
@[simp] theorem State.resetOf_st (c : Config) : (State.resetOf c).st = .idle := (rfl)
@[simp] theorem State.resetOf_err (c : Config) : (State.resetOf c).err = .ok := (rfl)
@[simp] theorem State.resetOf_outLen (c : Config) : (State.resetOf c).outLen = 0 := (rfl)
@[simp] theorem State.resetOf_work (c : Config) : (State.resetOf c).work = Work.zero := (rfl)
@[simp] theorem State.resetOf_pass (c : Config) : (State.resetOf c).pass = [] := (rfl)
@[simp] theorem State.resetOf_inBuf (c : Config) : (State.resetOf c).inBuf = [] := (rfl)
@[simp] theorem State.resetOf_out (c : Config) : (State.resetOf c).out = [] := (rfl)

/-! ### Completions forget what the steps before them wrote -/

@[simp] theorem State.complete_goTo (n : StepNo) (o : List Byte) : (s.goTo n).complete o = s.complete o := (rfl)
@[simp] theorem State.complete_setWork (w : Work) (n : StepNo) (o : List Byte) :
    (s.setWork w n).complete o = s.complete o := (rfl)
@[simp] theorem State.complete_start (o : List Byte) : s.start.complete o = s.complete o := (rfl)
@[simp] theorem State.raise_goTo (n : StepNo) (e : ErrCode) : (s.goTo n).raise e = s.raise e := (rfl)
@[simp] theorem State.raise_setWork (w : Work) (n : StepNo) (e : ErrCode) :
    (s.setWork w n).raise e = s.raise e := (rfl)
@[simp] theorem State.raise_start (e : ErrCode) : s.start.raise e = s.raise e := (rfl)
@[simp] theorem State.setWork_setWork (w w' : Work) (n n' : StepNo) :
    (s.setWork w n).setWork w' n' = s.setWork w' n' := (rfl)
@[simp] theorem State.setWork_goTo (w : Work) (n n' : StepNo) :
    (s.setWork w n).goTo n' = s.setWork w n' := (rfl)
@[simp] theorem State.goTo_setWork (w : Work) (n n' : StepNo) :
    (s.goTo n).setWork w n' = s.setWork w n' := (rfl)
@[simp] theorem State.goTo_goTo (n n' : StepNo) : (s.goTo n).goTo n' = s.goTo n' := (rfl)

end Sys2Proof.Machine
end

