-- ==== Sys2Proof/Laws/Ops.lean ====
section
/-! SUPPORT. What the shared operations can do, once: the numbered steps' results, the bounded reads, the record in `REC`, the
padding and chaining engines, and the shape of every command's end. -/

namespace Sys2Proof.Machine

/-! ### Steps -/

@[simp] theorem Ctl.andThen_more (s : State) (f : State → Ctl) : (Ctl.more s).andThen f = f s := (rfl)
@[simp] theorem Ctl.andThen_ended (s : State) (f : State → Ctl) : (Ctl.ended s).andThen f = .ended s := (rfl)
@[simp] theorem Ctl.andThen_raise (s : State) (e : ErrCode) (f : State → Ctl) :
    (Ctl.raise s e).andThen f = .raise s e := (rfl)
@[simp] theorem Ctl.state_more (s : State) : (Ctl.more s).state = s := (rfl)
@[simp] theorem Ctl.state_ended (s : State) : (Ctl.ended s).state = s := (rfl)
@[simp] theorem Ctl.state_raise (s : State) (e : ErrCode) : (Ctl.raise s e).state = s.raise e := (rfl)

/-- A read of `IN` inside the valid length goes through. -/
theorem Ctl.readIn_of_le {s : State} {a n : Nat} (h : a + n ≤ s.work.ops.inLen.toNat) (k : List Byte → Ctl) :
    Ctl.readIn s a n k = k (s.work.ops.inBuf.readRange a n) := if_pos h

/-- A read of `REC` inside the valid length goes through. -/
theorem Ctl.readRec_of_le {s : State} {a n : Nat} (h : a + n ≤ s.work.recLen.toNat) (k : List Byte → Ctl) :
    Ctl.readRec s a n k = k (s.work.recBuf.readRange a n) := if_pos h

@[simp] theorem State.passphrase_goTo (s : State) (n : StepNo) : (s.goTo n).passphrase = s.passphrase := (rfl)
@[simp] theorem State.passphrase_setWork (s : State) (w : Work) (n : StepNo) :
    (s.setWork w n).passphrase = s.passphrase := (rfl)
@[simp] theorem State.passphrase_start (s : State) : s.start.passphrase = s.passphrase := (rfl)
@[simp] theorem State.passphrase_afterDraw (s : State) : s.afterDraw.passphrase = s.passphrase := (rfl)
@[simp] theorem State.input_goTo (s : State) (n : StepNo) : (s.goTo n).input = s.input := (rfl)
@[simp] theorem State.input_setWork (s : State) (w : Work) (n : StepNo) : (s.setWork w n).input = s.input := (rfl)
@[simp] theorem State.input_start (s : State) : s.start.input = s.input := (rfl)
@[simp] theorem State.passOperandOk_start (s : State) : s.start.passOperandOk = s.passOperandOk := (rfl)
@[simp] theorem State.inOperandOk_start (s : State) : s.start.inOperandOk = s.inOperandOk := (rfl)
@[simp] theorem State.operands_goTo (s : State) (n : StepNo) : (s.goTo n).operands = s.operands := (rfl)
@[simp] theorem State.operands_setWork (s : State) (w : Work) (n : StepNo) : (s.setWork w n).operands = s.operands := (rfl)
@[simp] theorem State.operands_start (s : State) : s.start.operands = s.operands := (rfl)
@[simp] theorem State.passphrase_operands (s : State) : s.operands.passphrase = s.passphrase := (rfl)
@[simp] theorem State.input_operands (s : State) : s.operands.input = s.input := (rfl)
@[simp] theorem State.inLen_operands (s : State) : s.operands.inLen = s.inLen := (rfl)
@[simp] theorem State.inBuf_operands (s : State) : s.operands.inBuf = s.inBuf := (rfl)
@[simp] theorem State.passLen_operands (s : State) : s.operands.passLen = s.passLen := (rfl)
@[simp] theorem State.pass_operands (s : State) : s.operands.pass = s.pass := (rfl)
/-- Whether operands can be presented does not depend on the step a command is at. -/
@[simp] theorem State.passPresentable_goTo (s : State) (n : StepNo) (o : Sampled) :
    (s.goTo n).passPresentable o = s.passPresentable o := (rfl)
@[simp] theorem State.inPresentable_goTo (s : State) (n : StepNo) (o : Sampled) :
    (s.goTo n).inPresentable o = s.inPresentable o := (rfl)
@[simp] theorem State.passPresentable_start (s : State) (o : Sampled) :
    s.start.passPresentable o = s.passPresentable o := (rfl)
@[simp] theorem State.inPresentable_start (s : State) (o : Sampled) : s.start.inPresentable o = s.inPresentable o := (rfl)
@[simp] theorem State.passPresentable_operands (s : State) : s.passPresentable s.operands = s.passOperandOk := (rfl)
@[simp] theorem State.inPresentable_operands (s : State) : s.inPresentable s.operands = s.inOperandOk := (rfl)
/-- What a command reads at its start is what the host's registers hold (R23). -/
@[simp] theorem State.ops_start (s : State) : s.start.work.ops = s.operands := (rfl)
@[simp] theorem State.ops_goTo (s : State) (n : StepNo) : (s.goTo n).work.ops = s.work.ops := (rfl)
/-- A step that names its working registers keeps the sampled operands it started with (R23). -/
@[simp] theorem State.ops_deriveKeyStep (s : State) (n : StepNo) : (s.deriveKeyStep n).work.ops = s.work.ops := (rfl)
@[simp] theorem State.ops_setRecord (s : State) (r : List Byte) (n : StepNo) : (s.setRecord r n).work.ops = s.work.ops := (rfl)
@[simp] theorem State.nextDraw_goTo (s : State) (n : StepNo) : (s.goTo n).nextDraw = s.nextDraw := (rfl)
@[simp] theorem State.nextDraw_setWork (s : State) (w : Work) (n : StepNo) :
    (s.setWork w n).nextDraw = s.nextDraw := (rfl)
@[simp] theorem State.nextDraw_start (s : State) : s.start.nextDraw = s.nextDraw := (rfl)

/-! ### The record -/

/-- What is put into `REC` is read back. -/
theorem State.record_setRecord (s : State) {r : List Byte} (h : r.length < 2 ^ 32) (n : StepNo) :
    (s.setRecord r n).record = r := by
  have hl : (BitVec.ofNat 32 r.length).toNat = r.length := by simp; omega
  simp only [State.record, State.setRecord, State.setWork_work, hl, Memory.readRange_ofList]

/-! ### Padding, chaining, hashing: lengths -/

/-- Unpadding never lengthens (R176). -/
theorem unpad_length_le {x r : List Byte} (h : unpad x = some r) : r.length ≤ x.length := by
  unfold unpad at h
  dsimp only at h
  split at h
  · cases h
  · split at h
    · cases h; simp
    · cases h

theorem padLen_bounds (r : Nat) : 1 ≤ padLen r ∧ padLen r ≤ 16 := by unfold padLen; omega

@[simp] theorem length_pad (r : List Byte) : (pad r).length = 16 * (r.length / 16 + 1) := by
  simp [pad, padLen]; omega

@[simp] theorem length_plainRecord (t : List Byte) : (plainRecord t).length = 8 + t.length := by
  simp [plainRecord, le16, le32]; omega

@[simp] theorem length_envelope (iv : Block) (body : List Byte) : (envelope iv body).length = 20 + body.length := by
  simp [envelope]; omega

@[simp] theorem length_cbcEncBlocks (rk : List Word) (iv : Block) (xs : List Block) :
    (cbcEncBlocks rk iv xs).length = xs.length := by
  induction xs generalizing iv with
  | nil => rfl
  | cons x xs ih => simp [cbcEncBlocks, ih]

@[simp] theorem length_cbcDecBlocks (rk : List Word) (iv : Block) (ys : List Block) :
    (cbcDecBlocks rk iv ys).length = ys.length := by
  induction ys generalizing iv with
  | nil => rfl
  | cons y ys ih => simp [cbcDecBlocks, ih]

@[simp] theorem length_cbcEnc (key : List Byte) (iv : Block) (x : List Byte) :
    (cbcEnc key iv x).length = 16 * (x.length / 16) := by simp [cbcEnc]

@[simp] theorem length_cbcDec (key : List Byte) (iv : Block) (y : List Byte) :
    (cbcDec key iv y).length = 16 * (y.length / 16) := by simp [cbcDec]

@[simp] theorem length_wordBytes (w : Word) : (wordBytes w).length = 4 := by simp [wordBytes, beBytes]

/-- Every digest has 32 bytes (R119). -/
@[simp] theorem length_sha256 (m : List Byte) : (sha256 m).length = 32 := by simp [sha256, shaDigest]

@[simp] theorem length_deriveKey (p : List CodePoint) : (deriveKey p).length = 32 := by simp [deriveKey]

/-- The key register holds the derived key after the key step (R120, R121). -/
theorem State.key_deriveKeyStep (s : State) (n : StepNo) :
    (s.deriveKeyStep n).work.key.toList = deriveKey s.work.ops.passphrase := by
  have : (shaDigest (shaRun (utf16le s.work.ops.passphrase)).h).length = 32 := by simp [shaDigest]
  simp [State.deriveKeyStep, deriveKey, sha256, this]

/-! ### The end of every command -/

/-- Where a command can end (R247, R248): from the state it ran in, or from that state after its one draw, with output or
with an error that is neither `OK` nor `CipherInitError`. -/
def CommandEnd (s : State) (t : State) : Prop :=
  (∃ e, e ≠ .ok ∧ e ≠ .cipherInitError ∧ t = s.raise e) ∨ ∃ o, t = s.complete o ∨ t = s.afterDraw.complete o

@[simp] theorem State.complete_setRecord (s : State) (r : List Byte) (n : StepNo) (o : List Byte) :
    (s.setRecord r n).complete o = s.complete o := (rfl)
@[simp] theorem State.raise_setRecord (s : State) (r : List Byte) (n : StepNo) (e : ErrCode) :
    (s.setRecord r n).raise e = s.raise e := (rfl)
@[simp] theorem State.complete_deriveKeyStep (s : State) (n : StepNo) (o : List Byte) :
    (s.deriveKeyStep n).complete o = s.complete o := (rfl)
@[simp] theorem State.raise_deriveKeyStep (s : State) (n : StepNo) (e : ErrCode) :
    (s.deriveKeyStep n).raise e = s.raise e := (rfl)
@[simp] theorem State.afterDraw_goTo (s : State) (n : StepNo) : (s.goTo n).afterDraw = s.afterDraw.goTo n := (rfl)
@[simp] theorem State.afterDraw_setWork (s : State) (w : Work) (n : StepNo) :
    (s.setWork w n).afterDraw = s.afterDraw.setWork w n := (rfl)
@[simp] theorem State.afterDraw_setRecord (s : State) (r : List Byte) (n : StepNo) :
    (s.setRecord r n).afterDraw = s.afterDraw.setRecord r n := (rfl)
@[simp] theorem State.afterDraw_start (s : State) : s.start.afterDraw = s.afterDraw.start := (rfl)

theorem kdfRun_end (s : State) : CommandEnd s (kdfRun s.start).state := by
  unfold kdfRun kdfStep0
  split
  · exact .inl ⟨.illegalCommand, by decide, by decide, by simp⟩
  · split
    · exact .inl ⟨.badOperand, by decide, by decide, by simp⟩
    · refine .inr ⟨((s.start.goTo .s1).deriveKeyStep .s1).work.key.toList, .inl ?_⟩
      simp only [Ctl.andThen_more, kdfStep1, Ctl.state_ended, State.complete_deriveKeyStep, State.complete_goTo,
        State.complete_start]

/-- What a step that draws nothing and does not end the command well answers: the next step, in a state that differs in `STEP`
and the working registers only, or an error. -/
def PlainStep (s : State) (c : Ctl) : Prop :=
  (∃ e, e ≠ .ok ∧ e ≠ .cipherInitError ∧ c = .raise s e) ∨ ∃ w n, c = .more (s.setWork w n)

theorem PlainStep.goTo (s : State) (n : StepNo) : PlainStep s (.more (s.goTo n)) := .inr ⟨s.work, n, rfl⟩
theorem PlainStep.raise (s : State) {e : ErrCode} (h : e ≠ .ok) (h' : e ≠ .cipherInitError) :
    PlainStep s (.raise s e) := .inl ⟨e, h, h', rfl⟩

theorem PlainStep.readIn {s : State} {a n : Nat} {k : List Byte → Ctl} (h : ∀ v, PlainStep s (k v)) :
    PlainStep s (Ctl.readIn s a n k) := by
  unfold Ctl.readIn
  split
  · exact h _
  · exact .raise s (by decide) (by decide)

theorem PlainStep.readRec {s : State} {a n : Nat} {k : List Byte → Ctl} (h : ∀ v, PlainStep s (k v)) :
    PlainStep s (Ctl.readRec s a n k) := by
  unfold Ctl.readRec
  split
  · exact h _
  · exact .raise s (by decide) (by decide)

theorem decStep0_step (s : State) : PlainStep s (decStep0 s) := by
  unfold decStep0
  split
  · exact .raise s (by decide) (by decide)
  · split
    · exact .raise s (by decide) (by decide)
    · exact .goTo s _

theorem decStep1_step (s : State) : PlainStep s (decStep1 s) := by
  unfold decStep1
  split
  · exact .raise s (by decide) (by decide)
  · exact .goTo s _

theorem decStep2_step (s : State) : PlainStep s (decStep2 s) :=
  .readIn fun v => by
    split
    · exact .goTo s _
    · exact .raise s (by decide) (by decide)

theorem decStep3_step (s : State) : PlainStep s (decStep3 s) :=
  .readIn fun _ => .readIn fun _ => .inr ⟨_, _, rfl⟩

theorem decStep4_step (s : State) : PlainStep s (decStep4 s) := .inr ⟨_, _, rfl⟩
theorem decStep5_step (s : State) : PlainStep s (decStep5 s) := .inr ⟨_, _, rfl⟩

theorem decStep6_step (s : State) : PlainStep s (decStep6 s) := by
  unfold decStep6
  split
  · exact .raise s (by decide) (by decide)
  · exact .inr ⟨_, _, rfl⟩

theorem decStep6b_step (s : State) : PlainStep s (decStep6b s) := by
  unfold decStep6b
  split
  · exact .raise s (by decide) (by decide)
  · exact .goTo s _

theorem decStep7_step (s : State) : PlainStep s (decStep7 s) :=
  .readRec fun v => by
    split
    · exact .goTo s _
    · exact .raise s (by decide) (by decide)

theorem decStep8_step (s : State) : PlainStep s (decStep8 s) :=
  .readRec fun v => by
    split
    · exact .goTo s _
    · exact .raise s (by decide) (by decide)

theorem decStep9_step (s : State) : PlainStep s (decStep9 s) :=
  .readRec fun v => by
    split
    · exact .raise s (by decide) (by decide)
    · exact .goTo s _

theorem decStep10_end (s : State) : CommandEnd s (decStep10 s).state := by
  unfold decStep10 Ctl.readRec
  dsimp only
  split
  · split
    · exact .inr ⟨_, .inl rfl⟩
    · exact .inl ⟨_, by decide, by decide, rfl⟩
  · exact .inl ⟨_, by decide, by decide, rfl⟩

/-- The end of a command is the same seen from a state that differs in the working registers only. -/
theorem CommandEnd.of_setWork {s : State} {w : Work} {n : StepNo} {t : State} (h : CommandEnd (s.setWork w n) t) :
    CommandEnd s t := h

/-- One more step before the end of a command. -/
theorem CommandEnd.andThen {s : State} {c : Ctl} {f : State → Ctl} (h : PlainStep s c)
    (hf : ∀ t, CommandEnd t (f t).state) : CommandEnd s (c.andThen f).state := by
  obtain ⟨e, h1, h2, rfl⟩ | ⟨w, n, rfl⟩ := h
  · exact .inl ⟨e, h1, h2, rfl⟩
  · exact (hf _).of_setWork

theorem encStep0_step (s : State) : PlainStep s (encStep0 s) := by
  unfold encStep0
  split
  · exact .raise s (by decide) (by decide)
  · exact .goTo s _

theorem encStep1_step (s : State) : PlainStep s (encStep1 s) := by
  unfold encStep1
  split
  · exact .raise s (by decide) (by decide)
  · exact .goTo s _

theorem encStep2_step (s : State) : PlainStep s (encStep2 s) := .inr ⟨_, _, rfl⟩
theorem encStep3_step (s : State) : PlainStep s (encStep3 s) := .inr ⟨_, _, rfl⟩

/-- From the draw on, `ENCRYPT` succeeds with some output (R194 to R197). -/
theorem encTail_end (s : State) :
    CommandEnd s ((encStep4 s).andThen fun s => (encStep5 s).andThen fun s => (encStep6 s).andThen encStep7).state := by
  refine .inr (Exists.intro ?_ (.inr ?_))
  rotate_left
  · simp only [Ctl.andThen_more, encStep4, encStep5, encStep6, encStep7, Ctl.state_ended, State.complete_setWork,
      State.complete_deriveKeyStep]
    rfl

theorem encRun_end (s : State) : CommandEnd s (encRun s.start).state := by
  refine (CommandEnd.andThen (s := s.start) (encStep0_step _) fun t => ?_ : CommandEnd s.start _)
  exact .andThen (encStep1_step _) fun t => .andThen (encStep2_step _) fun t => .andThen (encStep3_step _) fun t =>
    encTail_end t

theorem decRun_end (s : State) : CommandEnd s (decRun s.start).state := by
  refine (CommandEnd.andThen (s := s.start) (decStep0_step _) fun t => ?_ : CommandEnd s.start _)
  exact .andThen (decStep1_step _) fun t => .andThen (decStep2_step _) fun t => .andThen (decStep3_step _) fun t =>
    .andThen (decStep4_step _) fun t => .andThen (decStep5_step _) fun t => .andThen (decStep6_step _) fun t =>
    .andThen (decStep6b_step _) fun t => .andThen (decStep7_step _) fun t => .andThen (decStep8_step _) fun t =>
    .andThen (decStep9_step _) fun t => decStep10_end t

/-- Every command answers a next state, at one of the two completions (R247, R248, R251). -/
theorem exec_command_end {i : Instr} (hi : i.isCommand = true) (s : State) : ∃ t, exec i s = .next t ∧ CommandEnd s t := by
  cases i with
  | deriveKey => exact ⟨_, rfl, kdfRun_end s⟩
  | encrypt => exact ⟨_, rfl, encRun_end s⟩
  | decrypt => exact ⟨_, rfl, decRun_end s⟩
  | envVersionV2 => cases hi
  | recMagic => cases hi
  | recAuthLenNone => cases hi

/-- A command word decodes to a command only (R82). -/
theorem isCommand_of_decodeCommand {w : Word} {i : Instr} (h : decodeCommand w = .ok i) : i.isCommand = true := by
  unfold decodeCommand at h
  dsimp only at h
  split at h
  · cases h
  · split at h
    · cases h; rfl
    · split at h
      · cases h; rfl
      · split at h
        · cases h; rfl
        · cases h

/-- Steps 6b to 10 of `DECRYPT` on an unpadded record are the checks of R217 to R221. -/
theorem decTail (u : State) (r : List Byte) (hr : r.length < 2 ^ 32) :
    ((decStep6b (u.setRecord r .s6b)).andThen fun s => (decStep7 s).andThen fun s =>
      (decStep8 s).andThen fun s => (decStep9 s).andThen decStep10).state = u.settle (sourceUnwrap r) := by
  have hl : (u.setRecord r .s6b).work.recLen.toNat = r.length := by
    simp [State.setRecord]; omega
  have hm : (u.setRecord r .s6b).work.recBuf = Memory.ofList r := by simp [State.setRecord]
  have hR : ∀ e, (u.setRecord r .s6b).raise e = u.raise e := fun e => by simp
  have hC : ∀ e, (u.setRecord r .s6b).complete e = u.complete e := fun e => by simp
  generalize u.setRecord r .s6b = t at hl hm hR hC
  unfold sourceUnwrap decStep6b
  rw [hl]
  by_cases h8 : r.length < 8
  · rw [if_pos h8, if_pos (by simpa [recHdr] using h8), Ctl.andThen_raise, Ctl.state_raise, hR]; rfl
  rw [if_neg h8, if_neg (by simpa [recHdr] using h8), Ctl.andThen_more]
  have hrd : ∀ a n, a + n ≤ r.length → (Memory.ofList r).readRange a n = (r.drop a).take n :=
    fun a n => Memory.readRange_ofList_slice r
  rw [decStep7, Ctl.readRec_of_le (by simp [hl]; omega)]
  simp only [State.goTo_work, hm]
  rw [hrd 0 4 (by omega), decode_magic (by simp; omega), List.drop_zero]
  by_cases hmg : r.take 4 = [0x0D, 0xF0, 0xAD, 0xBA]
  swap
  · rw [if_neg hmg, if_pos hmg]; simp only [Ctl.andThen_raise, Ctl.state_raise, State.raise_goTo, hR]; rfl
  rw [if_pos hmg, if_neg (not_not.2 hmg)]
  simp only [Ctl.andThen_more]
  rw [decStep8, Ctl.readRec_of_le (by simp [hl]; omega)]
  simp only [State.goTo_work, hm]
  rw [hrd 4 2 (by omega), decode_authLen (by simp; omega)]
  by_cases ha : (r.drop 4).take 2 = [0x00, 0x00]
  swap
  · rw [if_neg ha, if_pos ha]; simp only [Ctl.andThen_raise, Ctl.state_raise, State.raise_goTo, hR]; rfl
  rw [if_pos ha, if_neg (not_not.2 ha)]
  simp only [Ctl.andThen_more]
  rw [decStep9, Ctl.readRec_of_le (by simp [hl]; omega)]
  simp only [State.goTo_work, hm, hl]
  rw [hrd 6 2 (by omega)]
  by_cases hn : 8 + leNum ((r.drop 6).take 2) > r.length
  · rw [if_pos (by simpa [recHdr] using hn), if_pos hn]; simp only [Ctl.andThen_raise, Ctl.state_raise, State.raise_goTo, hR]; rfl
  rw [if_neg (by simpa [recHdr] using hn), if_neg hn]
  simp only [Ctl.andThen_more]
  rw [decStep10, Ctl.readRec_of_le (by simp [hl]; omega)]
  simp only [State.goTo_work, hm]
  rw [hrd 6 2 (by omega), Ctl.readRec_of_le (by simp [hl, recHdr]; omega)]
  simp only [State.goTo_work, hm, recHdr]
  rw [hrd 8 _ (by omega)]
  simp only [Ctl.state_ended, State.complete_goTo, hC]; rfl

end Sys2Proof.Machine
end

