-- ==== Sys2Proof/Laws/PerInstr.lean ====
section
/-! SUPPORT. Statements about every instruction as syntax, one lemma per constructor: an instruction's bytes are as long as its
format says and are read from the table word they make. -/

namespace Sys2Proof.Laws.TableWord

/-- The bytes of `i` are as many as its format has, and the decoder reads `i` from the table word they make. -/
def Statement (i : Instr) : Prop :=
  (encode i).length = i.format.size ∧ decodeTableWord (8 * i.format.size) (leNum (encode i)) = some i

theorem deriveKey : Statement .deriveKey := by unfold Statement; decide
theorem encrypt : Statement .encrypt := by unfold Statement; decide
theorem decrypt : Statement .decrypt := by unfold Statement; decide
theorem envVersionV2 : Statement .envVersionV2 := by unfold Statement; decide
theorem recMagic : Statement .recMagic := by unfold Statement; decide
theorem recAuthLenNone : Statement .recAuthLenNone := by unfold Statement; decide

end Sys2Proof.Laws.TableWord
end

