-- ==== Sys2Proof/Laws/Step.lean ====
section
/-! SUPPORT. What one step can do, once: whose move it is, how a step that answers a next state came about,
and what the sequencer of each command runs. -/

namespace Sys2Proof.Machine

/-- A step that answers a next state ran an instruction or made a move without one. -/
theorem step_next_cases {s t : State} (h : step s = .next t) :
    (∃ i u, fetch s = .run i u ∧ exec i u = .next t) ∨ fetch s = .settle t := by
  unfold step at h
  split at h
  · next i u hf => exact .inl ⟨i, u, hf, h⟩
  · next u hf => cases h; exact .inr hf
  · cases h

/-- A move that is a fault stops the machine. -/
theorem step_of_fault {s : State} {f : Fault} (h : fetch s = .fault f) : step s = .fault f := by rw [step, h]

theorem step_of_run {s u : State} {i : Instr} (h : fetch s = .run i u) : step s = exec i u := by rw [step, h]
theorem step_of_settle {s t : State} (h : fetch s = .settle t) : step s = .next t := by rw [step, h]

/-- Between commands with no access to come, nothing happens. -/
theorem fetch_idle {s : State} (hs : s.st ≠ .busy) (hq : s.hostQueue = []) : fetch s = .settle s := by
  rw [fetch, hq]; exact if_neg hs

/-- Between commands the host moves. -/
theorem fetch_host {s : State} {a : HostAccess} {q : List HostAccess} (hs : s.st ≠ .busy) (hq : s.hostQueue = a :: q) :
    fetch s = hostAccess a (s.hostTook q) := by
  rw [fetch, hq]; exact if_neg hs

/-- While a command runs, the host's access is seen as such. -/
theorem fetch_busyHost {s : State} {a : HostAccess} {q : List HostAccess} (hs : s.st = .busy) (hq : s.hostQueue = a :: q) :
    fetch s = busyAccess a (s.hostTook q) := by
  rw [fetch, hq]; exact if_pos hs

/-- While a command runs and the host makes no access, the sequencer moves. -/
theorem fetch_sequence {s : State} (hs : s.st = .busy) (hq : s.hostQueue = []) : fetch s = sequence s := by
  rw [fetch, hq]; exact if_pos hs

/-! ### Several steps -/

/-- The sequencer of `DERIVE_KEY` runs its numbered step. -/
theorem step_kdf {s : State} {c : Ctl} (hs : s.st = .busy) (hq : s.hostQueue = []) (hc : s.cmd = 0x00000001)
    (h : kdfStep s.stepNo s = some c) : step s = .next c.state := by
  apply step_of_settle
  rw [fetch_sequence hs hq, sequence, hc, show decodeCommand 0x00000001 = .ok .deriveKey from rfl]
  simp only [h, settleStep]

/-- The sequencer of `ENCRYPT` runs its numbered step. -/
theorem step_enc {s : State} {c : Ctl} (hs : s.st = .busy) (hq : s.hostQueue = []) (hc : s.cmd = 0x00000002)
    (h : encStep s.stepNo s = some c) : step s = .next c.state := by
  apply step_of_settle
  rw [fetch_sequence hs hq, sequence, hc, show decodeCommand 0x00000002 = .ok .encrypt from rfl]
  simp only [h, settleStep]

/-- What a discriminator's format decodes to is the row of that format. -/
theorem format_of_decode {f : Format} {bs rest : List Byte} {i : Instr} (h : decode f bs = .ok (i, rest)) :
    i.format = f := by
  unfold decode at h
  split at h
  · cases h
  · split at h
    · next j hj =>
      cases h
      cases f <;> simp only [decodeValue, decodeCommand, decodeVersion, decodeMagic, decodeAuthLen] at hj <;>
        repeat' first | (cases hj; rfl) | cases hj | split at hj
    · cases h

/-- The sequencer of `DECRYPT` runs its numbered step, be it through the discriminator that stands there. -/
theorem step_dec {s : State} (hs : s.st = .busy) (hq : s.hostQueue = []) (hc : s.cmd = 0x00000003) :
    step s = .next (decStep s.stepNo s).state := by
  rw [step, fetch_sequence hs hq, sequence, hc, show decodeCommand 0x00000003 = .ok .decrypt from rfl]
  dsimp only
  unfold State.discriminator
  cases hn : s.stepNo
  case s2 =>
    dsimp only
    cases hd : decode .version (s.work.ops.inBuf.readRange 0 1) with
    | rejected r => rfl
    | ok p =>
      have := format_of_decode hd
      obtain ⟨i, _⟩ := p
      cases i <;> first | rfl | cases this
  case s7 =>
    dsimp only
    cases hd : decode .magic (s.work.recBuf.readRange 0 4) with
    | rejected r => rfl
    | ok p =>
      have := format_of_decode hd
      obtain ⟨i, _⟩ := p
      cases i <;> first | rfl | cases this
  case s8 =>
    dsimp only
    cases hd : decode .authLen (s.work.recBuf.readRange 4 2) with
    | rejected r => rfl
    | ok p =>
      have := format_of_decode hd
      obtain ⟨i, _⟩ := p
      cases i <;> first | rfl | cases this
  all_goals rfl

/-- The first of several steps, when it answers a next state. -/
theorem run_succ {s t : State} (h : step s = .next t) (k : Nat) :
    Host.Core.run Sys2Proof.core (k + 1) s = Host.Core.run Sys2Proof.core k t := by
  have e : ∀ (M : Host.Core) (s t : M.State), M.step s = .next t → M.run (k + 1) s = M.run k t := by
    intro M s t h
    rw [Host.Core.run, h]
  exact e Sys2Proof.core s t h

/-- Between commands, with no access to come, any number of steps changes nothing. -/
theorem run_idle {s : State} (hs : s.st ≠ .busy) (hq : s.hostQueue = []) (k : Nat) :
    Host.Core.run Sys2Proof.core k s = .next s := by
  induction k with
  | zero => rfl
  | succ k ih =>
    rw [run_succ (step_of_settle (fetch_idle hs hq)), ih]

end Sys2Proof.Machine
end

