-- ==== Sys2Proof/WellFormed.lean ====
section
/-! DEFINITION. Which instructions a build has. No instruction has an operand to check (spec/30_encoding.md R82); the one
thing a build leaves open is the presence of `DERIVE_KEY` (spec/92_eei_decisions.md D10). -/

namespace Sys2Proof

/-- A build that omits `DERIVE_KEY` has no such instruction (40_kdf R122, D10); every build has the other five. -/
def Instr.wellFormed (c : Config) : Instr → Bool
  | .deriveKey => c.hasDeriveKey
  | .encrypt => true
  | .decrypt => true
  | .envVersionV2 => true
  | .recMagic => true
  | .recAuthLenNone => true

end Sys2Proof
end

