-- ==== Sys2Proof/Tests/Slice0.lean ====
section
/-! SUPPORT. Small tests on fixed values and the witnesses of the statements' hypotheses. Every expected result is the spec's
own: the encoding tables of spec/30_encoding.md and the vectors of spec/95_test_vectors.md, named in each comment. -/

namespace Sys2Proof.Tests

open Sys2Proof.Machine

/-! ### Helpers -/

/-- A step's next state seen through `f`; `none` where it gives no next state. -/
def seen {α : Type} (f : State → α) : Host.Outcome State Fault Refusal → Option α
  | .next t => some (f t)
  | .fault _ => none
  | .refused _ => none

/-- After reset, the host about to make the accesses `q`. -/
def withHost (q : List HostAccess) : State := { State.reset with hostQueue := q }

/-- Idle, the passphrase `p` and the input `i` in place. -/
def operands (p : List CodePoint) (i : List Byte) : State :=
  { State.reset with
    pass := Memory.ofList p
    passLen := BitVec.ofNat 32 p.length
    inBuf := Memory.ofList i
    inLen := BitVec.ofNat 32 i.length }

/-- A build with `PASS_CAP` 4, the least `IN_CAP`, and no `DERIVE_KEY`. -/
def smallBuild : Config := ⟨some 4, some ⟨65572, le_rfl⟩, false⟩

/-- The small build after reset, the host about to make the accesses `q`. -/
def smallHost (q : List HostAccess) : State := { State.resetOf smallBuild with hostQueue := q }

/-- `DECRYPT` in progress, the host about to make the accesses `q`. -/
def busyHost (q : List HostAccess) : State := { State.reset with cmd := 3, st := .busy, hostQueue := q }

/-- `DONE` after an error, the host about to make the accesses `q`. -/
def doneHost (q : List HostAccess) : State := { State.reset with st := .done, err := .badOperand, hostQueue := q }

/-- The IV and the body of S2. -/
def ivS2 : List Byte := [0x64, 0x47, 0xC5, 0x21, 0x31, 0xF5, 0x36, 0x20, 0x9B, 0x1F, 0xB5, 0xD3, 0x08, 0xE9, 0x9D, 0x52]
def bodyS2 : List Byte := [0x18, 0xC9, 0x71, 0xE7, 0x4C, 0x85, 0x33, 0x7C, 0xEE, 0x8B, 0x83, 0x5C, 0x82, 0x21, 0x9D, 0x60]

/-- The operands of `DECRYPT` in the vectors V21 to V39: passphrase "a", `iv1`, one block of body. -/
def oneBlock (body : List Byte) : State :=
  operands [0x61] ([0x02, 0x00, 0x00, 0x00] ++
    [0x00, 0x01, 0x02, 0x03, 0x04, 0x05, 0x06, 0x07, 0x08, 0x09, 0x0A, 0x0B, 0x0C, 0x0D, 0x0E, 0x0F] ++ body)

/-- S2 as operands of `DECRYPT`. -/
def decryptS2 : State := operands [0x61] ([0x02, 0x00, 0x00, 0x00] ++ ivS2 ++ bodyS2)

/-- S2 as operands of `ENCRYPT`, the harness answering the draw with its IV. -/
def encryptS2 : State := { operands [0x61] [0x62] with entropy := ⟨[Block.ofBytes ivS2], 0⟩ }

/-! ### WellFormed -/

/-- D10: a build that omits `DERIVE_KEY` does not have it; the one check there is refuses it. -/
theorem test_wellFormed_refuses_deriveKey : Instr.wellFormed smallBuild .deriveKey = false := by decide
theorem test_wellFormed_reference : ∀ i ∈ [Instr.deriveKey, .encrypt, .decrypt, .envVersionV2, .recMagic, .recAuthLenNone],
    Instr.wellFormed Config.reference i = true := by decide

/-! ### Decoding, words written out from the tables of 30_encoding R82, R83, R85 -/

theorem test_decode_deriveKey : decodeTableWord 32 0b00000000000000000000000000000001 = some .deriveKey := by decide
theorem test_decode_encrypt : decodeTableWord 32 0b00000000000000000000000000000010 = some .encrypt := by decide
theorem test_decode_decrypt : decodeTableWord 32 0b00000000000000000000000000000011 = some .decrypt := by decide
theorem test_decode_version : decodeTableWord 8 0b00000010 = some .envVersionV2 := by decide
theorem test_decode_magic : decodeTableWord 32 0b10111010101011011111000000001101 = some .recMagic := by decide
theorem test_decode_authLen : decodeTableWord 16 0b0000000000000000 = some .recAuthLenNone := by decide
/-- W4 to W10: words around the legal ones, and a nonzero `RSV`. -/
theorem test_decode_illegal :
    decodeCommand 0 = .rejected .illegalOp ∧ decodeCommand 4 = .rejected .illegalOp ∧
    decodeCommand 0xFF = .rejected .illegalOp ∧ decodeCommand 0x100 = .rejected .reservedBits ∧
    decodeCommand 0x101 = .rejected .reservedBits ∧ decodeCommand 0x80000002 = .rejected .reservedBits := by decide
/-- Bytes that are too few are named so. -/
theorem test_decode_truncated : decode .magic [0x0D, 0xF0, 0xAD] = .rejected .truncated := by decide

/-! ### One step, from reset with a table word placed -/

/-- R122: `DERIVE_KEY` of the empty passphrase starts E3 B0 C4 42 (K1). -/
theorem test_step_deriveKey :
    seen (fun t => t.output.take 4) (step (State.reset.withFetchWord 32 1)) = some [0xE3, 0xB0, 0xC4, 0x42] := by
  decide +kernel
/-- R197: the envelope of an empty plaintext has 36 bytes. -/
theorem test_step_encrypt : seen (·.statusWord) (step (State.reset.withFetchWord 32 2)) = some 2 := by decide +kernel
/-- V7: an envelope of no bytes is `MalformedEnvelope` (3 in bits 11:8). -/
theorem test_step_decrypt : seen (·.statusWord) (step (State.reset.withFetchWord 32 3)) = some 0x302 := by decide +kernel
theorem test_step_version : seen (·.stepNo) (step (State.reset.withFetchWord 8 2)) = some .s3 := by decide +kernel
theorem test_step_magic : seen (·.stepNo) (step (State.reset.withFetchWord 32 0xBAADF00D)) = some .s8 := by decide +kernel
theorem test_step_authLen : seen (·.stepNo) (step (State.reset.withFetchWord 16 0)) = some .s9 := by decide +kernel

/-- S2, decrypted: the plaintext is `62`. -/
theorem test_decrypt_S2 : seen (·.output) (exec .decrypt decryptS2) = some [0x62] := by decide +kernel
/-- S2, encrypted with the IV of S2. -/
theorem test_encrypt_S2 :
    seen (·.output) (exec .encrypt encryptS2) = some ([0x02, 0x00, 0x00, 0x00] ++ ivS2 ++ bodyS2) := by decide +kernel
/-- V14: a wrong Version ends the command. -/
theorem test_version_wrong : seen (·.err) (exec .envVersionV2 (operands [] [0x00]).start) = some .unsupportedVersion := by
  decide +kernel

/-! ### Witnesses: whose move it is -/

theorem witness_CommandWordsDecode : (4 : Word) ≠ 1 ∧ (4 : Word) ≠ 2 ∧ (4 : Word) ≠ 3 := by decide
theorem witness_StepRunsWrittenCommand :
    (withHost [.writeReg .cmd 3]).st ≠ .busy ∧
    (withHost [.writeReg .cmd 3]).hostQueue = .writeReg .cmd 3 :: [] ∧ decodeCommand 3 = .ok .decrypt := by decide
theorem witness_StepRunsDiscriminator_version :
    let s := State.reset.withFetchWord 8 2
    s.st = .busy ∧ s.hostQueue = [] ∧ s.cmd = 3 ∧ s.stepNo = .s2 ∧
      decode .version [s.work.ops.inBuf.read 0] = .ok (.envVersionV2, []) := by decide +kernel
theorem witness_StepRunsDiscriminator_magic :
    let s := State.reset.withFetchWord 32 0xBAADF00D
    s.st = .busy ∧ s.hostQueue = [] ∧ s.cmd = 3 ∧ s.stepNo = .s7 ∧
      decode .magic (s.work.recBuf.readRange 0 4) = .ok (.recMagic, []) := by decide +kernel
theorem witness_StepRunsDiscriminator_authLen :
    let s := State.reset.withFetchWord 16 0
    s.st = .busy ∧ s.hostQueue = [] ∧ s.cmd = 3 ∧ s.stepNo = .s8 ∧
      decode .authLen (s.work.recBuf.readRange 4 2) = .ok (.recAuthLenNone, []) := by decide +kernel
theorem witness_IllegalCommandCompletes (w : Word) (h : w = 0 ∨ w = 4) :
    (doneHost [.writeReg .cmd w]).st ≠ .busy ∧
    (doneHost [.writeReg .cmd w]).hostQueue = .writeReg .cmd w :: [] ∧ w ≠ 1 ∧ w ≠ 2 ∧ w ≠ 3 := by
  obtain rfl | rfl := h <;> exact ⟨by decide, rfl, by decide, by decide, by decide⟩
theorem witness_CommandRegisterAccess :
    (busyHost [.writeReg .cmd 1]).st = .busy ∧ (busyHost [.writeReg .cmd 1]).hostQueue = .writeReg .cmd 1 :: [] ∧
    (withHost [.readReg .cmd]).hostQueue = .readReg .cmd :: [] := by decide
/-- The buffers' last entries: 3 of 4, and 65571. -/
theorem witness_HostReadsAnswer :
    (∀ r ∈ [HostReg.status, .passLen, .inLen, .outLen],
      (doneHost [.readReg r]).st ≠ .busy ∧ (doneHost [.readReg r]).hostQueue = .readReg r :: []) ∧
    (∀ c ∈ [(HostBuf.pass, 3), (.inp, 65571), (.out, 65571)],
      (smallHost [.readBuf c.1 c.2]).st ≠ .busy ∧ (smallHost [.readBuf c.1 c.2]).hasEntry c.1 c.2 = true ∧
      (smallHost [.readBuf c.1 c.2]).hostQueue = .readBuf c.1 c.2 :: []) := by decide +kernel
theorem witness_HostWritesReachOperands :
    (∀ a ∈ [HostAccess.writeReg .passLen 7, .writeReg .inLen 7, .writePass 3 0x61, .writeIn 65571 0xFF],
      (smallHost [a]).st ≠ .busy ∧ (smallHost [a]).MemoriesWf ∧ (smallHost [a]).hostQueue = a :: []) ∧
    (smallHost []).hasEntry .pass 3 = true ∧ (smallHost []).hasEntry .inp 65571 = true := by decide +kernel
theorem witness_ReadOnlyWritesIgnored :
    ∀ a ∈ [HostAccess.writeReg .status 2, .writeReg .outLen 2, .writeOut 65571 1],
      (withHost [a]).hostQueue = a :: [] := by decide
/-- The first index past each buffer. -/
theorem witness_MissingEntriesFault :
    ∀ a ∈ [HostAccess.writePass 4 0, .writeIn 65572 0, .writeOut 65572 0, .readBuf .pass 4, .readBuf .inp 65572,
      .readBuf .out 65572], (smallHost [a]).hostQueue = a :: [] ∧ a.entryExists (smallHost [a]) = false := by decide +kernel
theorem witness_BusyOperandAccess :
    ∀ a ∈ [HostAccess.writeReg .passLen 1, .writeReg .inLen 1, .writePass 0 0x61, .writeIn 0 1, .readReg .status,
      .readReg .outLen, .readBuf .out 65571, .readReg .passLen, .readReg .inLen, .readBuf .pass 0, .readBuf .inp 0],
      (busyHost [a]).st = .busy ∧ (busyHost [a]).hostQueue = a :: [] ∧ a.entryExists (busyHost [a]) = true ∧
      (busyHost [a]).MemoriesWf := by decide

/-- U2: the host's write during `BUSY` reaches `PASS`, and no other sampled entry changes. -/
theorem test_busy_write :
    seen (fun t => (t.pass.read 1, t.work.ops.pass.read 0)) (step { (operands [0x61] []).start with hostQueue := [.writePass 1 0x62] }) =
      some (0x62, 0x61) := by decide +kernel

/-! ### Witnesses: reset and completion -/

theorem witness_ResetPinAbandonsCommand : (busyHost [.reset]).hostQueue = .reset :: [] := by decide
/-- The second clause: operands written, no command run. The third: a command in progress. -/
theorem witness_ResetValues :
    ((operands [0x61] [0x62]).st ≠ .busy ∧ (operands [0x61] [0x62]).hostQueue = []) ∧
    (busyHost [.reset]).st = .busy ∧ (busyHost [.reset]).hostQueue = .reset :: [] := by decide
theorem witness_OnlyResetReachesIdle : ∃ s t : State, step s = .next t ∧ t.st = .idle := ⟨State.reset, State.reset, rfl, rfl⟩
theorem witness_CompletionUpdates : ([] : List Byte).length ≤ 65572 ∧ (List.replicate 65572 (0 : Byte)).length ≤ 65572 :=
  ⟨by decide, by rw [List.length_replicate]⟩
theorem witness_ResultStaysUntilNextCommand :
    ∃ s t : State, s.st = .done ∧ step s = .next t ∧
      (∀ w, s.hostQueue.head? ≠ some (.writeReg .cmd w)) ∧ s.hostQueue.head? ≠ some .reset :=
  ⟨doneHost [], doneHost [], rfl, rfl, by simp [doneHost], by simp [doneHost]⟩
theorem witness_OnlyHostChangesOperands :
    ∃ s t : State, step s = .next t ∧ s.hostQueue.head? ≠ some .reset ∧
      (∀ i v, s.hostQueue.head? ≠ some (.writePass i v)) ∧ (∀ i v, s.hostQueue.head? ≠ some (.writeIn i v)) ∧
      (∀ v, s.hostQueue.head? ≠ some (.writeReg .passLen v)) ∧ (∀ v, s.hostQueue.head? ≠ some (.writeReg .inLen v)) ∧
      (∀ w, s.hostQueue.head? ≠ some (.writeReg .cmd w)) :=
  ⟨withHost [], withHost [], rfl, by simp [withHost]⟩

/-! ### Witnesses: the commands -/

theorem witness_DeriveKeyCommand :
    ((operands [0x61] []).build.hasDeriveKey = true ∧ (operands [0x61] []).passOperandOk = true) ∧
    ((operands [0xD800] []).build.hasDeriveKey = true ∧ (operands [0xD800] []).passOperandOk = false) ∧
    (smallHost []).build.hasDeriveKey = false := by decide
/-- K32 to K34 and K37: the entries next to the surrogate ranges and past the last code point; one entry too many. -/
theorem witness_BadOperandsRejected :
    (0 < (operands [0xD800] []).passLen.toNat ∧ ((operands [0xD800] []).pass.read 0).toNat = 0xD800) ∧
    ((operands [0xDFFF] []).pass.read 0).toNat = 0xDFFF ∧
    0x10FFFF < ((operands [0x110000] []).pass.read 0).toNat ∧
    (smallHost []).passCap = some 4 ∧ 4 < ({ smallHost [] with passLen := 5 } : State).passLen.toNat ∧
    (smallHost []).inCap = some 65572 ∧ 65572 < ({ smallHost [] with inLen := 65573 } : State).inLen.toNat := by
  decide +kernel
/-- The entries on the other side of each boundary are accepted (R96). -/
theorem test_scalar_boundaries :
    (operands [0xD7FF, 0xE000, 0x10FFFF, 0] []).passOperandOk = true ∧
    ({ smallHost [] with passLen := 4, inLen := 65572 } : State).passOperandOk = true ∧
    ({ smallHost [] with passLen := 4, inLen := 65572 } : State).inOperandOk = true := by decide +kernel
/-- `IN_LEN` 65535 is the longest plaintext: the witness of `EncryptCompletes`, of `EncryptEnvelopeShape` and of the second
clause of `EncryptChecksSize`. -/
theorem witness_EncryptCompletes :
    let s : State := { operands [0x61] [] with inLen := 65535 }
    s.passOperandOk = true ∧ s.inLen.toNat ≤ 65535 := by decide
theorem witness_EncryptChecksSize :
    let s : State := { operands [0x61] [] with inLen := 65536 }
    s.passOperandOk = true ∧ 65535 < s.inLen.toNat := by decide
theorem witness_EnvelopesEqualIffDrawsEqual :
    let s := encryptS2
    let u := operands [0x61] [0x62]
    s.passOperandOk = true ∧ u.passOperandOk = true ∧ s.inLen.toNat ≤ 65535 ∧
    s.passphrase = u.passphrase ∧ s.inLen = u.inLen ∧ s.input = u.input := by decide
/-- V11 and V12: 35 and 37 bytes; 37 is past the least length and no whole blocks. -/
theorem witness_DecryptChecksLength :
    (let s : State := { decryptS2 with inLen := 35 }
     s.passOperandOk = true ∧ s.inOperandOk = true ∧ s.inLen.toNat < 36) ∧
    (let s : State := { decryptS2 with inLen := 37 }
     s.passOperandOk = true ∧ s.inOperandOk = true ∧ (s.inLen.toNat - 20) % 16 ≠ 0) := by decide
/-- V15 and V16: the versions on both sides of 2. -/
theorem witness_DecryptChecksVersion :
    ∀ v ∈ [(1 : Byte), 3],
      let s := operands [0x61] ([v, 0x00, 0x00, 0x00] ++ ivS2 ++ bodyS2)
      s.passOperandOk = true ∧ s.inOperandOk = true ∧ 36 ≤ s.inLen.toNat ∧ (s.inLen.toNat - 20) % 16 = 0 ∧
      s.inBuf.read 0 ≠ 0x02 := by decide +kernel
/-- V21: the last byte of the buffer is 0. -/
theorem witness_DecryptChecksPadding : ∃ s : State, s.DecryptReady ∧ s.unpadded = none :=
  ⟨oneBlock [0xC0, 0x80, 0x91, 0x6D, 0x49, 0xBC, 0x4A, 0x3D, 0xD7, 0xC7, 0xE1, 0xB4, 0x0C, 0xC1, 0x99, 0x75],
    ⟨by decide, by decide, by decide, by decide, by decide⟩, by decide +kernel⟩
/-- V38: the unpadded record has 7 bytes. -/
theorem witness_DecryptChecksRecordHeader :
    ∃ (s : State) (r : List Byte), s.DecryptReady ∧ s.unpadded = some r ∧ r.length < 8 :=
  ⟨oneBlock [0x3D, 0x02, 0xB7, 0x7C, 0x32, 0xCD, 0xAE, 0x60, 0x55, 0xCA, 0x3C, 0xA6, 0x82, 0x63, 0xB0, 0x51],
    [0x0D, 0xF0, 0xAD, 0xBA, 0x00, 0x00, 0x00],
    ⟨by decide, by decide, by decide, by decide, by decide⟩, by decide +kernel, by decide⟩
/-- V26: the magic is wrong in one bit. -/
theorem witness_DecryptChecksMagic :
    ∃ (s : State) (r : List Byte), s.DecryptReady ∧ s.unpadded = some r ∧ 8 ≤ r.length ∧ leNum (r.take 4) ≠ 0xBAADF00D :=
  ⟨oneBlock [0x16, 0x46, 0xF8, 0x9E, 0x27, 0xBB, 0xB8, 0x66, 0x51, 0x8C, 0x52, 0x46, 0x0F, 0xA0, 0x5C, 0x58],
    [0x0D, 0xF0, 0xAD, 0xBB, 0x00, 0x00, 0x01, 0x00, 0x62],
    ⟨by decide, by decide, by decide, by decide, by decide⟩, by decide +kernel, by decide, by decide⟩
/-- V29: AuthLen 1. -/
theorem witness_DecryptChecksAuthLen :
    ∃ (s : State) (r : List Byte), s.DecryptReady ∧ s.unpadded = some r ∧ 8 ≤ r.length ∧
      leNum (r.take 4) = 0xBAADF00D ∧ leNum ((r.drop 4).take 2) ≠ 0 :=
  ⟨oneBlock [0xE8, 0x73, 0x1D, 0x5E, 0x04, 0xC3, 0x1C, 0x19, 0x19, 0x40, 0x14, 0xA4, 0x91, 0xC7, 0x2F, 0x5C],
    [0x0D, 0xF0, 0xAD, 0xBA, 0x01, 0x00, 0x01, 0x00, 0x62],
    ⟨by decide, by decide, by decide, by decide, by decide⟩, by decide +kernel, by decide, by decide, by decide⟩
/-- V32: one byte of plaintext, PlaintextLength 2. -/
theorem witness_DecryptChecksPlaintextLength :
    ∃ (s : State) (r : List Byte), s.DecryptReady ∧ s.unpadded = some r ∧ 8 ≤ r.length ∧
      leNum (r.take 4) = 0xBAADF00D ∧ leNum ((r.drop 4).take 2) = 0 ∧ r.length < 8 + leNum ((r.drop 6).take 2) :=
  ⟨oneBlock [0x35, 0xF2, 0x28, 0x8A, 0x12, 0x40, 0x31, 0xC6, 0xF4, 0xEC, 0x7C, 0x5A, 0x93, 0x89, 0xA7, 0x81],
    [0x0D, 0xF0, 0xAD, 0xBA, 0x00, 0x00, 0x02, 0x00, 0x62],
    ⟨by decide, by decide, by decide, by decide, by decide⟩, by decide +kernel, by decide, by decide, by decide, by decide⟩
/-- S2, the second clause: one byte of plaintext, PlaintextLength 1, the record's end met exactly. -/
theorem witness_DecryptChecksPlaintextLength_accepts :
    ∃ (s : State) (r : List Byte), s.DecryptReady ∧ s.unpadded = some r ∧ 8 ≤ r.length ∧
      leNum (r.take 4) = 0xBAADF00D ∧ leNum ((r.drop 4).take 2) = 0 ∧ 8 + leNum ((r.drop 6).take 2) ≤ r.length :=
  ⟨decryptS2, [0x0D, 0xF0, 0xAD, 0xBA, 0x00, 0x00, 0x01, 0x00, 0x62],
    ⟨by decide, by decide, by decide, by decide, by decide⟩, by decide +kernel, by decide, by decide, by decide⟩

/-! ### Witnesses: the discriminators -/

theorem witness_VersionDiscriminator :
    (1 ≤ (operands [] [0x02]).start.work.ops.inLen.toNat ∧ (operands [] [0x02]).start.work.ops.inBuf.read 0 = 0x02) ∧
    (1 ≤ (operands [] [0x03]).start.work.ops.inLen.toNat ∧ (operands [] [0x03]).start.work.ops.inBuf.read 0 ≠ 0x02) := by
  decide

/-- `DECRYPT` with the record `r` in `REC`. -/
def withRecord (r : List Byte) : State := (operands [] []).setRecord r .s7

theorem witness_MagicDiscriminator :
    (4 ≤ (withRecord [0x0D, 0xF0, 0xAD, 0xBA]).work.recLen.toNat ∧
      (withRecord [0x0D, 0xF0, 0xAD, 0xBA]).work.recBuf.readRange 0 4 = [0x0D, 0xF0, 0xAD, 0xBA]) ∧
    (4 ≤ (withRecord [0xBA, 0xAD, 0xF0, 0x0D]).work.recLen.toNat ∧
      (withRecord [0xBA, 0xAD, 0xF0, 0x0D]).work.recBuf.readRange 0 4 ≠ [0x0D, 0xF0, 0xAD, 0xBA]) := by decide
theorem witness_AuthLenDiscriminator :
    (6 ≤ (withRecord [0, 0, 0, 0, 0, 0]).work.recLen.toNat ∧ (withRecord [0, 0, 0, 0, 0, 0]).work.recBuf.read 4 = 0 ∧
      (withRecord [0, 0, 0, 0, 0, 0]).work.recBuf.read 5 = 0) ∧
    (6 ≤ (withRecord [0, 0, 0, 0, 0, 1]).work.recLen.toNat ∧
      ((withRecord [0, 0, 0, 0, 0, 1]).work.recBuf.read 4 ≠ 0 ∨
        (withRecord [0, 0, 0, 0, 0, 1]).work.recBuf.read 5 ≠ 0)) := by decide

/-! ### Witnesses: rules over all commands -/

theorem witness_EveryCommandReachesDone : Instr.isCommand .deriveKey = true ∧ Instr.isCommand .recMagic = false := by decide
theorem witness_CommandFrame : ∃ (s t : State) (i : Instr), i.isCommand = true ∧ exec i s = .next t :=
  ⟨State.reset, _, .deriveKey, rfl, rfl⟩
theorem witness_DiscriminatorFrame : ∃ (s t : State) (i : Instr), i.isCommand = false ∧ exec i s = .next t :=
  ⟨State.reset, _, .envVersionV2, rfl, rfl⟩
theorem witness_ResultDependsOnOperandsOnly :
    let s := encryptS2
    let u : State := { encryptS2 with st := .done, err := .badOperand, stepNo := .s10 }
    s.build = u.build ∧ s.passLen = u.passLen ∧ s.passphrase = u.passphrase ∧ s.inLen = u.inLen ∧ s.input = u.input ∧
    s.nextDraw = u.nextDraw := by decide
theorem witness_ReservedBytesIgnored :
    ∀ a, a ≠ 1 → a ≠ 2 → a ≠ 3 → Memory.read [(1, (0xFF : Byte))] a = (State.reset.inBuf).read a := by
  intro a h _ _
  simp [Memory.read, State.reset, State.resetOf, Ne.symm h]
theorem witness_RoundTrip :
    encryptS2.passOperandOk = true ∧ encryptS2.inLen.toNat ≤ 65535 ∧ decryptS2.passOperandOk = true ∧
    decryptS2.passphrase = encryptS2.passphrase ∧ seen (·.output) (exec .encrypt encryptS2) = some decryptS2.input := by
  decide +kernel
theorem witness_AtomicCommandIsItsSteps (w : Word) (_ : w = 1 ∨ w = 2 ∨ w = 3) :
    ({ decryptS2 with cmd := w } : State).hostQueue = [] ∧ ({ decryptS2 with cmd := w } : State).cmd = w := ⟨rfl, rfl⟩
theorem witness_StepNumbersIncrease :
    let s := (busyHost []).goTo .s0
    s.st = .busy ∧ s.hostQueue = [] ∧ seen (fun t => (t.st, t.stepNo)) (step s) = some (.busy, .s1) := by decide +kernel

/-! ### Witnesses: the algorithms -/

theorem witness_MessagePaddingShape : ([] : List Byte).length < 2 ^ 61 := by decide
theorem witness_Utf16Faithful :
    (0xFFFF : CodePoint).toNat < 0x10000 ∧
    (0x10000 ≤ (0x10000 : CodePoint).toNat ∧ (0x10FFFF : CodePoint).toNat ≤ 0x10FFFF) ∧
    [(0xD7FF : CodePoint), 0xE000].all isScalar = true ∧
    utf16le [0x10FFFF] = [0xFF, 0xDB, 0xFF, 0xDF] := by decide
theorem witness_CbcInverse : (List.replicate 16 (0 : Byte)).length % 16 = 0 ∧ 16 ≤ (List.replicate 16 (0 : Byte)).length := by
  decide
/-- Q: sixteen bytes `10` are all padding, one byte `01` is the least. -/
theorem witness_UnpaddingAccepts :
    unpad (List.replicate 16 0x10) = some [] ∧ unpad (List.replicate 15 0x62 ++ [0x01]) = some (List.replicate 15 0x62) := by
  decide +kernel

/-! ### Witnesses: the invariant -/

/-- A state of the invariant, with operands, an error reported, and a host access to come. -/
theorem witness_StepKeepsInvariant :
    ({ operands [0x61] [0x62] with st := .done, err := .badOperand, hostQueue := [.writeReg .cmd 2] } : State).Inv :=
  ⟨by decide, rfl, by decide, by decide, by decide, by decide, by decide, by decide, by decide, by decide⟩
theorem witness_StepIsSafe :
    ∀ a, ({ operands [0x61] [0x62] with hostQueue := [.writeReg .cmd 2] } : State).hostQueue.head? = some a →
      a.entryExists (operands [0x61] [0x62]) = true := by
  intro a h; cases h; rfl
theorem witness_StepKeepsMemoriesCanonical : (operands [0x61] [0x62]).MemoriesWf := by decide

end Sys2Proof.Tests
end

/-! Proofs: what each command computes, said once on the source's functions; that the result of a command depends on its
operands only (R11); and the invariant between two commands (R4). -/

namespace Sys2Proof.Machine

/-! ### `DERIVE_KEY` and `ENCRYPT` -/

@[simp] theorem Sampled.length_input (o : Sampled) : o.input.length = o.inLen.toNat := Memory.length_readRange _ _ _

/-- `DERIVE_KEY` checks the build and the passphrase, then publishes the derived key (R122). -/
theorem exec_deriveKey (s : State) : exec .deriveKey s = .next
    (if s.build.hasDeriveKey = false then s.raise .illegalCommand
     else if s.passOperandOk = false then s.raise .badOperand
     else s.complete (deriveKey s.passphrase)) := by
  change Host.Outcome.next (kdfRun s.start).state = _
  rw [kdfRun, kdfStep0, State.ops_start, State.passPresentable_start, State.passPresentable_operands, State.start_build]
  split
  · rfl
  split
  · rfl
  · simp only [Ctl.andThen_more, kdfStep1, Ctl.state_ended, State.key_deriveKeyStep, State.complete_deriveKeyStep,
      State.complete_goTo, State.complete_start, State.ops_goTo, State.ops_start, State.passphrase_operands]

/-- Steps 4 to 7 of `ENCRYPT` draw the IV and emit the envelope of what `REC` holds (R194 to R197). -/
theorem encTail (u : State) :
    ((encStep4 u).andThen fun s => (encStep5 s).andThen fun s => (encStep6 s).andThen encStep7).state =
      u.afterDraw.complete (envelope u.nextDraw (cbcEnc (deriveKey u.work.ops.passphrase) u.nextDraw u.record)) := by
  have hiv (t : State) (n : StepNo) : (t.deriveKeyStep n).work.ivr = t.work.ivr := rfl
  have hrec (t : State) (n : StepNo) : (t.deriveKeyStep n).record = t.record := rfl
  simp only [encStep4, encStep5, encStep6, encStep7, Ctl.andThen_more, Ctl.state_ended, State.setWork_work,
    State.complete_setWork, State.complete_deriveKeyStep, State.key_deriveKeyStep, hiv, hrec, cbcEnc]
  rfl

/-- `ENCRYPT` checks the passphrase and the length, then draws the IV and publishes the envelope (R190, R191). -/
theorem exec_encrypt (s : State) : exec .encrypt s = .next
    (if s.passOperandOk = false then s.raise .badOperand
     else if s.inLen.toNat > 65535 then s.raise .inputTooLarge
     else s.afterDraw.complete (envelope s.nextDraw
      (cbcEnc (deriveKey s.passphrase) s.nextDraw (pad (plainRecord s.input))))) := by
  change Host.Outcome.next (encRun s.start).state = _
  rw [encRun, encStep0, State.ops_start, State.passPresentable_start, State.passPresentable_operands]
  split
  · rfl
  rw [Ctl.andThen_more, encStep1, State.ops_goTo, State.ops_start, State.inLen_operands, ptMax]
  split
  · rfl
  · have hr : (plainRecord s.input).length < 2 ^ 32 := by rw [length_plainRecord, State.length_input]; omega
    have hp : (pad (plainRecord s.input)).length < 2 ^ 32 := by
      rw [length_pad, length_plainRecord, State.length_input]; omega
    simp only [Ctl.andThen_more, encStep2, encStep3, encTail, State.record_setRecord, State.ops_goTo, State.ops_start,
      State.input_operands, State.ops_setRecord, State.passphrase_operands, hr, hp]
    rfl

/-! ### `DECRYPT` -/

@[simp] theorem State.settle_goTo (s : State) (n : StepNo) (r : Result) : (s.goTo n).settle r = s.settle r := by
  cases r <;> rfl
@[simp] theorem State.settle_setWork (s : State) (w : Work) (n : StepNo) (r : Result) :
    (s.setWork w n).settle r = s.settle r := by cases r <;> rfl
@[simp] theorem State.settle_start (s : State) (r : Result) : s.start.settle r = s.settle r := by cases r <;> rfl

/-- Step 1 of `DECRYPT` accepts the lengths that the source accepts (R211). -/
theorem envelopeLenOk_eq_false_iff (l : Nat) : envelopeLenOk l = false ↔ l < 36 ∨ (l - 20) % 16 ≠ 0 := by
  rw [envelopeLenOk, Bool.and_eq_false_iff, decide_eq_false_iff_not, decide_eq_false_iff_not, envMin, envHdr, not_le]

/-- Step 2 of `DECRYPT` looks at the first byte of the input (R212). -/
theorem decStep2_eq {u : State} (h : 0 < u.work.ops.inLen.toNat) :
    decStep2 u = if u.work.ops.input.head? ≠ some 0x02 then .raise u .unsupportedVersion else .more (u.goTo .s3) := by
  have hh : u.work.ops.input.head? = some (u.work.ops.inBuf.read 0) := by
    obtain ⟨n, hn⟩ := Nat.exists_eq_add_of_lt h
    rw [Sampled.input, hn]
    rfl
  rw [decStep2, Ctl.readIn_of_le (by omega), hh]
  simp only [Memory.readRange, decode_version]
  by_cases hv : u.work.ops.inBuf.read 0 = 0x02
  · rw [if_pos hv, if_neg (by rw [hv]; exact not_not.2 rfl)]
  · rw [if_neg hv, if_pos (by simpa using hv)]

/-- Step 3 of `DECRYPT` takes the IV and the body from the input (R213). -/
theorem decStep3_eq {u : State} (h : 20 ≤ u.work.ops.inLen.toNat) :
    decStep3 u = .more (u.setWork { u.work with
      ivr := Block.ofBytes (u.work.ops.input.drop 4), body := u.work.ops.input.drop 20 } .s4) := by
  have hiv : u.work.ops.inBuf.readRange 4 16 = (u.work.ops.input.drop 4).take 16 := by
    rw [Sampled.input, Memory.readRange_slice _ (by omega)]
  have hbody : u.work.ops.inBuf.readRange 20 (u.work.ops.inLen.toNat - 20) = u.work.ops.input.drop 20 := by
    rw [← List.take_of_length_le (l := u.work.ops.input.drop 20) (i := u.work.ops.inLen.toNat - 20)
      (by simp), Sampled.input, Memory.readRange_slice _ (by omega)]
  rw [decStep3, Ctl.readIn_of_le (by omega), Ctl.readIn_of_le (by simp [envHdr]; omega), envHdr, hiv, hbody,
    Block.ofBytes_take]

/-- Step 5 of `DECRYPT` leaves in `REC` what `BODY` decrypts to, and changes nothing but working registers (R215). -/
theorem decStep5_eq {u : State} (h : u.work.body.length < 2 ^ 32) :
    ∃ w, decStep5 u = .more (u.setWork w .s6) ∧
      (u.setWork w .s6).record = cbcDec u.work.key.toList u.work.ivr u.work.body := by
  have hlen : (cbcDec u.work.key.toList u.work.ivr u.work.body).length < 2 ^ 32 := by rw [length_cbcDec]; omega
  refine ⟨_, rfl, ?_⟩
  rw [← State.record_setRecord u hlen .s6]
  rfl

/-- Steps 3 to 5 of `DECRYPT` recover the source's buffer, before any check of its padding (R213 to R215). -/
theorem decMiddle {u : State} (h : 20 ≤ u.work.ops.inLen.toNat) (f : State → Ctl) :
    ∃ w, ((decStep3 u).andThen fun s => (decStep4 s).andThen fun s => (decStep5 s).andThen f) = f (u.setWork w .s6) ∧
      (u.setWork w .s6).record = sourceBuffer u.work.ops.passphrase u.work.ops.input := by
  simp only [decStep3_eq h, Ctl.andThen_more, decStep4]
  have hb : (u.work.ops.input.drop 20).length < 2 ^ 32 := by
    have := u.work.ops.inLen.isLt
    rw [List.length_drop, Sampled.length_input]
    omega
  set v := u.setWork { u.work with
    ivr := Block.ofBytes (u.work.ops.input.drop 4), body := u.work.ops.input.drop 20 } .s4
  obtain ⟨w, hw, hrec⟩ := decStep5_eq (u := v.deriveKeyStep .s5) hb
  rw [State.key_deriveKeyStep] at hrec
  exact ⟨w, by rw [hw]; rfl, hrec⟩

/-- Steps 6 to 10 of `DECRYPT` strip the padding of the record in `REC` and unwrap it (R216 to R221). -/
theorem decFromStep6 (u : State) :
    ((decStep6 u).andThen fun s => (decStep6b s).andThen fun s => (decStep7 s).andThen fun s =>
      (decStep8 s).andThen fun s => (decStep9 s).andThen decStep10).state =
      u.settle ((unpad u.record).elim (.error .paddingInvalid) sourceUnwrap) := by
  rw [decStep6]
  cases hu : unpad u.record with
  | none => rfl
  | some r =>
    have hr : r.length < 2 ^ 32 := (unpad_length_le hu).trans_lt (u.length_record ▸ u.work.recLen.isLt)
    exact decTail u r hr

/-- `DECRYPT` computes the source's `decrypt` once step 0 has accepted the operands (R210). -/
theorem exec_decrypt (s : State) : exec .decrypt s = .next
    (if s.passOperandOk = false ∨ s.inOperandOk = false then s.raise .badOperand
     else s.settle (sourceDecrypt s.passphrase s.input)) := by
  change Host.Outcome.next (decRun s.start).state = _
  congr 1
  rw [decRun, decStep0, State.ops_start, State.passPresentable_start, State.passPresentable_operands,
    State.inPresentable_start, State.inPresentable_operands]
  by_cases hp : s.passOperandOk = false
  · rw [if_pos hp, if_pos (.inl hp)]; rfl
  by_cases hi : s.inOperandOk = false
  · rw [if_neg hp, if_pos hi, if_pos (.inr hi)]; rfl
  rw [if_neg hp, if_neg hi, if_neg (not_or.2 ⟨hp, hi⟩), Ctl.andThen_more, decStep1, sourceDecrypt, State.length_input,
    State.ops_goTo, State.ops_start, State.inLen_operands]
  by_cases hl : s.inLen.toNat < 36 ∨ (s.inLen.toNat - 20) % 16 ≠ 0
  · rw [if_pos ((envelopeLenOk_eq_false_iff _).2 hl), if_pos hl]; rfl
  have h36 : 36 ≤ s.inLen.toNat := by omega
  rw [if_neg (mt (envelopeLenOk_eq_false_iff _).1 hl), if_neg hl, Ctl.andThen_more,
    decStep2_eq (by simp only [State.ops_goTo, State.ops_start, State.inLen_operands]; omega)]
  simp only [State.ops_goTo, State.ops_start, State.input_operands, State.goTo_goTo]
  by_cases hv : s.input.head? ≠ some 0x02
  · rw [if_pos hv, if_pos hv]; rfl
  rw [if_neg hv, if_neg hv, Ctl.andThen_more]
  obtain ⟨w, hw, hrec⟩ := decMiddle (u := s.start.goTo .s3) (le_trans (by decide) h36)
    fun s => (decStep6 s).andThen fun s => (decStep6b s).andThen fun s => (decStep7 s).andThen fun s =>
      (decStep8 s).andThen fun s => (decStep9 s).andThen decStep10
  rw [hw, decFromStep6, hrec, State.ops_goTo, State.ops_start, State.passphrase_operands, State.input_operands,
    State.settle_setWork, State.settle_goTo, State.settle_start]
  cases unpad (sourceBuffer s.passphrase s.input) <;> rfl

/-! ### The result of a command -/

/-- The result of a command, before any of it is published. The discriminators are no commands and have none. -/
def State.commandResult (s : State) : Instr → Result
  | .deriveKey =>
    if s.build.hasDeriveKey = false then .error .illegalCommand
    else if s.passOperandOk = false then .error .badOperand
    else .bytes (deriveKey s.passphrase)
  | .encrypt =>
    if s.passOperandOk = false then .error .badOperand else sourceEncrypt s.passphrase s.input s.nextDraw
  | .decrypt =>
    if s.passOperandOk = false ∨ s.inOperandOk = false then .error .badOperand
    else sourceDecrypt s.passphrase s.input
  | .envVersionV2 | .recMagic | .recAuthLenNone => .error .illegalCommand

/-- Every command settles its result, on the state it ran in or on that state after its one draw. -/
theorem exec_command_settle {i : Instr} (hi : i.isCommand = true) (s : State) :
    ∃ u, (u = s ∨ u = s.afterDraw) ∧ exec i s = .next (u.settle (s.commandResult i)) := by
  cases i with
  | deriveKey =>
    refine ⟨s, .inl rfl, ?_⟩
    rw [exec_deriveKey, State.commandResult]
    split
    · rfl
    split <;> rfl
  | encrypt =>
    rw [exec_encrypt, State.commandResult, sourceEncrypt, State.length_input]
    split
    · exact ⟨s, .inl rfl, rfl⟩
    split
    · exact ⟨s, .inl rfl, rfl⟩
    · exact ⟨s.afterDraw, .inr rfl, rfl⟩
  | decrypt =>
    refine ⟨s, .inl rfl, ?_⟩
    rw [exec_decrypt, State.commandResult]
    split <;> rfl
  | envVersionV2 | recMagic | recAuthLenNone => cases hi

/-- Whether a passphrase operand is accepted depends on the build, the length and the passphrase. -/
theorem State.passOperandOk_congr {s u : State} (hb : s.build = u.build) (hl : s.passLen = u.passLen)
    (hp : s.passphrase = u.passphrase) : s.passOperandOk = u.passOperandOk := by
  simp only [State.passOperandOk, State.passPresentable, State.passCap, State.passLen_operands,
    State.passphrase_operands, hb, hl, hp]

/-- Whether an input operand is accepted depends on the build and the length. -/
theorem State.inOperandOk_congr {s u : State} (hb : s.build = u.build) (hl : s.inLen = u.inLen) :
    s.inOperandOk = u.inOperandOk := by
  simp only [State.inOperandOk, State.inPresentable, State.inCap, State.inLen_operands, hb, hl]

/-- The result is a function of the command, the build, the passphrase, the input and the draw, each where the command uses
it (R11). -/
theorem State.commandResult_congr {s u : State} {i : Instr} (hb : s.build = u.build) (hl : s.passLen = u.passLen)
    (hp : s.passphrase = u.passphrase) (hin : i ≠ .deriveKey → s.inLen = u.inLen ∧ s.input = u.input)
    (hd : i = .encrypt → s.nextDraw = u.nextDraw) : s.commandResult i = u.commandResult i := by
  have hok := State.passOperandOk_congr hb hl hp
  cases i with
  | deriveKey => simp only [State.commandResult, hb, hok, hp]
  | encrypt =>
    obtain ⟨-, hinput⟩ := hin (by decide)
    simp only [State.commandResult, hok, hp, hinput, hd rfl]
  | decrypt =>
    obtain ⟨hlen, hinput⟩ := hin (by decide)
    simp only [State.commandResult, hok, hp, hinput, State.inOperandOk_congr hb hlen]
  | envVersionV2 | recMagic | recAuthLenNone => rfl

/-- What the host sees of a completion is its result alone (R247, R248). -/
theorem State.settle_visible (s u : State) (r : Result) :
    (s.settle r).statusWord = (u.settle r).statusWord ∧ (s.settle r).outLen = (u.settle r).outLen ∧
      (s.settle r).out = (u.settle r).out := by
  cases r <;> exact ⟨rfl, rfl, rfl⟩

end Sys2Proof.Machine

namespace Sys2Proof

/-- Settles O40: both runs settle the same result, and a completion shows its result alone. -/
theorem resultDependsOnOperandsOnly : Obligations.ResultDependsOnOperandsOnly := by
  intro s u i hi hb hl hp hin hd
  obtain ⟨s', -, hs⟩ := Machine.exec_command_settle hi s
  obtain ⟨u', -, hu⟩ := Machine.exec_command_settle hi u
  rw [Machine.State.commandResult_congr hb hl hp hin hd] at hs
  exact ⟨_, _, hs, hu, Machine.State.settle_visible s' u' _⟩

end Sys2Proof

namespace Sys2Proof.Machine

/-! ### What a result can be -/

/-- A result that a completion reports as it is: output that `OUT` can hold, or an error that is neither `OK` nor
`CipherInitError` (R154, R197). -/
def Result.Reportable : Result → Prop
  | .bytes o => o.length ≤ outCap
  | .error e => e ≠ .ok ∧ e ≠ .cipherInitError

/-- A check that raises, before a result. -/
theorem Result.Reportable.check {c : Prop} [Decidable c] {e : ErrCode} {r : Result}
    (he : e ≠ .ok ∧ e ≠ .cipherInitError) (hr : r.Reportable) : (if c then Result.error e else r).Reportable := by
  split
  · exact he
  · exact hr

/-- Every envelope fits in `OUT` (R197). -/
theorem sourceEncrypt_reportable (p : List CodePoint) (t : List Byte) (iv : Block) :
    (sourceEncrypt p t iv).Reportable := by
  rw [sourceEncrypt]
  split
  · exact ⟨by decide, by decide⟩
  · change (envelope iv _).length ≤ outCap
    rw [length_envelope, length_cbcEnc, length_pad, length_plainRecord, outCap]
    omega

/-- Every plaintext has a length that two bytes can give (R220). -/
theorem sourceUnwrap_reportable (r : List Byte) : (sourceUnwrap r).Reportable := by
  have hn : leNum ((r.drop 6).take 2) < 256 ^ 2 :=
    (leNum_lt _).trans_le (Nat.pow_le_pow_right (by decide) (List.length_take_le _ _))
  have hout : ((r.drop 8).take (leNum ((r.drop 6).take 2))).length ≤ outCap :=
    (List.length_take_le _ _).trans (hn.le.trans (by decide))
  exact .check (by decide) (.check (by decide) (.check (by decide) (.check (by decide) hout)))

theorem sourceDecrypt_reportable (p : List CodePoint) (e : List Byte) : (sourceDecrypt p e).Reportable := by
  refine .check (by decide) (.check (by decide) ?_)
  cases unpad (sourceBuffer p e) with
  | none => exact ⟨by decide, by decide⟩
  | some r => exact sourceUnwrap_reportable r

theorem State.commandResult_reportable (s : State) (i : Instr) : (s.commandResult i).Reportable := by
  cases i with
  | deriveKey =>
    have hkey : (deriveKey s.passphrase).length ≤ outCap := by rw [length_deriveKey]; decide
    exact .check (by decide) (.check (by decide) hkey)
  | encrypt => exact .check (by decide) (sourceEncrypt_reportable _ _ _)
  | decrypt => exact .check (by decide) (sourceDecrypt_reportable _ _)
  | envVersionV2 | recMagic | recAuthLenNone => exact ⟨by decide, by decide⟩

/-! ### What keeps the invariant -/

theorem Work.zero_memories_wf :
    Work.zero.msg.wf ∧ Work.zero.recBuf.wf ∧ Work.zero.ops.pass.wf ∧ Work.zero.ops.inBuf.wf := by decide

section Inv
variable {s : State} (h : s.Inv)
include h

/-- The invariant says nothing of the fields that these updates write. -/
theorem State.Inv.hostTook (q : List HostAccess) : (s.hostTook q).Inv := { h with }
theorem State.Inv.answered (v : Word) : (s.answered v).Inv := { h with }
theorem State.Inv.setCmd (w : Word) : (s.setCmd w).Inv := { h with }
theorem State.Inv.setPassLen (v : Word) : (s.setPassLen v).Inv := { h with }
theorem State.Inv.setInLen (v : Word) : (s.setInLen v).Inv := { h with }
theorem State.Inv.afterDraw : s.afterDraw.Inv := { h with }

/-- A write of an entry of `PASS` that exists (R50). -/
theorem State.Inv.setPass {i : Nat} (hi : s.hasEntry .pass i = true) (v : CodePoint) : (s.setPass i v).Inv :=
  { h with
    memories := ⟨Memory.wf_write h.memories.1 i v, h.memories.2⟩
    passIn := fun c hc => (Memory.mem_write hc).elim (h.passIn c) fun e => e ▸ hi }

/-- A write of an entry of `IN` that exists (R50). -/
theorem State.Inv.setIn {i : Nat} (hi : s.hasEntry .inp i = true) (v : Byte) : (s.setIn i v).Inv :=
  have ⟨hpass, hin, hrest⟩ := h.memories
  { h with
    memories := ⟨hpass, Memory.wf_write hin i v, hrest⟩
    inIn := fun c hc => (Memory.mem_write hc).elim (h.inIn c) fun e => e ▸ hi }

/-- A success completion whose output `OUT` can hold (R247). -/
theorem State.Inv.complete {o : List Byte} (ho : o.length ≤ outCap) : (s.complete o).Inv := by
  have hlen : (s.complete o).outLen.toNat = o.length := by
    rw [State.complete_outLen, BitVec.toNat_ofNat, Nat.mod_eq_of_lt (ho.trans_lt (by decide))]
  obtain ⟨hpass, hin, -⟩ := h.memories
  exact {
    notBusy := nofun
    workZero := rfl
    memories := ⟨hpass, hin, Memory.wf_ofList o, Work.zero_memories_wf⟩
    outLenLe := hlen ▸ ho
    outTail := fun c hc => hlen ▸ Memory.lt_of_mem_ofList hc
    passIn := h.passIn
    inIn := h.inIn
    noCipherInit := nofun
    errorEmpty := fun he => absurd rfl he
    idleClean := nofun }

/-- An error completion with an error other than `CipherInitError` (R248). -/
theorem State.Inv.raise {e : ErrCode} (he : e ≠ .cipherInitError) : (s.raise e).Inv := by
  obtain ⟨hpass, hin, -⟩ := h.memories
  exact {
    notBusy := nofun
    workZero := rfl
    memories := ⟨hpass, hin, Memory.wf_nil, Work.zero_memories_wf⟩
    outLenLe := Nat.zero_le _
    outTail := nofun
    passIn := h.passIn
    inIn := h.inIn
    noCipherInit := he
    errorEmpty := fun _ => rfl
    idleClean := nofun }

theorem State.Inv.settle {r : Result} (hr : r.Reportable) : (s.settle r).Inv := by
  cases r with
  | bytes o => exact h.complete hr
  | error e => exact h.raise hr.2

/-- A command, run whole, leads from the invariant to the invariant (R4). -/
theorem State.Inv.exec_command {i : Instr} (hi : i.isCommand = true) {t : State} (ht : exec i s = .next t) : t.Inv := by
  obtain ⟨u, hu, he⟩ := exec_command_settle hi s
  cases ht.symm.trans he
  have hr := s.commandResult_reportable i
  obtain rfl | rfl := hu
  · exact h.settle hr
  · exact h.afterDraw.settle hr

end Inv

/-- The invariant holds after reset, in every build (R34). -/
theorem State.inv_resetOf (c : Config) : (State.resetOf c).Inv where
  notBusy := nofun
  workZero := rfl
  memories := ⟨Memory.wf_nil, Memory.wf_nil, Memory.wf_nil, Work.zero_memories_wf⟩
  outLenLe := Nat.zero_le _
  outTail := nofun
  passIn := nofun
  inIn := nofun
  noCipherInit := nofun
  errorEmpty := fun _ => rfl
  idleClean := fun _ => ⟨rfl, rfl⟩

theorem State.inv_assertReset (s : State) : s.assertReset.Inv := { State.inv_resetOf s.build with }

/-- A host access between two commands settles in the invariant or starts a command from it. -/
def Fetched.KeepsInv : Fetched → Prop
  | .run i s => i.isCommand = true ∧ s.Inv
  | .settle s => s.Inv
  | .fault _ => True

/-- An access that settles where its entry exists and is a fault elsewhere. -/
theorem Fetched.KeepsInv.guarded {b : Bool} {s : State} {f : Fault} (h : b = true → s.Inv) :
    (if b then Fetched.settle s else .fault f).KeepsInv := by
  cases b
  · trivial
  · exact h rfl

/-- A write of `CMD` starts a command from the invariant, or completes with `IllegalCommand` (R23, R244). -/
theorem startCommand_keepsInv {s : State} (h : s.Inv) (w : Word) : (startCommand s w).KeepsInv := by
  unfold startCommand
  split
  · next i hi => exact ⟨isCommand_of_decodeCommand hi, h.setCmd w⟩
  · exact (h.setCmd w).raise (by decide)

theorem hostAccess_keepsInv {s : State} (h : s.Inv) (a : HostAccess) : (hostAccess a s).KeepsInv := by
  cases a with
  | writeReg r v =>
    cases r with
    | cmd => exact startCommand_keepsInv h v
    | passLen => exact h.setPassLen v
    | inLen => exact h.setInLen v
    | status | outLen => exact h
  | readReg r => exact h.answered _
  | writePass i v => exact .guarded fun hi => h.setPass hi v
  | writeIn i v => exact .guarded fun hi => h.setIn hi v
  | writeOut i v => exact .guarded fun _ => h
  | readBuf b i => exact .guarded fun _ => h.answered _
  | reset => exact s.inv_assertReset

theorem fetch_keepsInv {s : State} (h : s.Inv) : (fetch s).KeepsInv := by
  cases hq : s.hostQueue with
  | nil => rw [fetch_idle h.notBusy hq]; exact h
  | cons a q => rw [fetch_host h.notBusy hq]; exact hostAccess_keepsInv (h.hostTook q) a

end Sys2Proof.Machine

namespace Sys2Proof

/-- Settles O56: between commands only the host moves, and each of its accesses, with the command it starts run whole, keeps
the invariant. -/
theorem stepKeepsInvariant : Obligations.StepKeepsInvariant := by
  intro s t h ht
  have hf := Machine.fetch_keepsInv h
  obtain ⟨i, u, hr, he⟩ | hs := Machine.step_next_cases ht
  · rw [hr] at hf
    exact hf.2.exec_command hf.1 he
  · rwa [hs] at hf

end Sys2Proof

/-! Proofs: what the state's operations do. What a numbered step can answer (R28), and with it whole commands as their steps,
the order of `STEP`, and what the block never writes; and one rule per host access (R21 to R26, R33). -/

namespace Sys2Proof.Machine

/-! ### What a numbered step can answer -/

/-- What a numbered step can answer (R28): the end of the command, or the step `next` in a state that differs in the working
registers and, after the draw of `ENCRYPT`, in the entropy source. The last step of a command has no `next`. -/
inductive Ctl.GoesTo (s : State) : Option StepNo → Ctl → Prop
  | ended {next : Option StepNo} {t : State} (h : CommandEnd s t) : GoesTo s next (.ended t)
  | more (w : Work) (n : StepNo) : GoesTo s (some n) (.more (s.setWork w n))
  | drawn (w : Work) (n : StepNo) : GoesTo s (some n) (.more (s.afterDraw.setWork w n))

namespace Ctl.GoesTo

variable {s : State} {next : Option StepNo} {c : Ctl}

theorem goTo (s : State) (n : StepNo) : GoesTo s (some n) (.more (s.goTo n)) := .more s.work n

theorem complete (s : State) (o : List Byte) : GoesTo s next (.ended (s.complete o)) := .ended (.inr ⟨o, .inl rfl⟩)

theorem raise (s : State) {e : ErrCode} (he : e ≠ .ok) (he' : e ≠ .cipherInitError) : GoesTo s next (.raise s e) :=
  .ended (.inl ⟨e, he, he', rfl⟩)

/-- A check that raises, before the rest of a step. -/
theorem check {p : Prop} [Decidable p] {e : ErrCode} (h : GoesTo s next c) (he : e ≠ .ok := by decide)
    (he' : e ≠ .cipherInitError := by decide) : GoesTo s next (if p then .raise s e else c) := by
  split
  · exact .raise s he he'
  · exact h

theorem readIn {a n : Nat} {k : List Byte → Ctl} (h : ∀ v, GoesTo s next (k v)) : GoesTo s next (Ctl.readIn s a n k) := by
  unfold Ctl.readIn
  split
  · exact h _
  · exact .raise s (by decide) (by decide)

theorem readRec {a n : Nat} {k : List Byte → Ctl} (h : ∀ v, GoesTo s next (k v)) :
    GoesTo s next (Ctl.readRec s a n k) := by
  unfold Ctl.readRec
  split
  · exact h _
  · exact .raise s (by decide) (by decide)

end Ctl.GoesTo

/-- The step after step `n` of `DERIVE_KEY` (R122). -/
def StepNo.nextOfKdf : StepNo → Option StepNo
  | .s0 => some .s1
  | _ => none

/-- The step after step `n` of `ENCRYPT` (R190). -/
def StepNo.nextOfEnc : StepNo → Option StepNo
  | .s0 => some .s1
  | .s1 => some .s2
  | .s2 => some .s3
  | .s3 => some .s4
  | .s4 => some .s5
  | .s5 => some .s6
  | .s6 => some .s7
  | _ => none

/-- The step after step `n` of `DECRYPT` (R210), 6b between 6 and 7. -/
def StepNo.nextOfDec : StepNo → Option StepNo
  | .s0 => some .s1
  | .s1 => some .s2
  | .s2 => some .s3
  | .s3 => some .s4
  | .s4 => some .s5
  | .s5 => some .s6
  | .s6 => some .s6b
  | .s6b => some .s7
  | .s7 => some .s8
  | .s8 => some .s9
  | .s9 => some .s10
  | .s10 => none

theorem StepNo.lt_nextOfKdf {n m : StepNo} (h : n.nextOfKdf = some m) : n.place < m.place := by
  cases n <;> cases h
  decide

theorem StepNo.lt_nextOfEnc {n m : StepNo} (h : n.nextOfEnc = some m) : n.place < m.place := by
  cases n <;> cases h <;> decide

theorem StepNo.lt_nextOfDec {n m : StepNo} (h : n.nextOfDec = some m) : n.place < m.place := by
  cases n <;> cases h <;> decide

theorem kdfStep_goesTo {n : StepNo} {s : State} {c : Ctl} (h : kdfStep n s = some c) : c.GoesTo s n.nextOfKdf := by
  cases n with
  | s0 => cases h; exact .check (.check (.goTo s .s1))
  | s1 => cases h; exact .complete s _
  | _ => cases h

theorem encStep_goesTo {n : StepNo} {s : State} {c : Ctl} (h : encStep n s = some c) : c.GoesTo s n.nextOfEnc := by
  cases n with
  | s0 => cases h; exact .check (.goTo s .s1)
  | s1 => cases h; exact .check (.goTo s .s2)
  | s2 => cases h; exact .more _ .s3
  | s3 => cases h; exact .more _ .s4
  | s4 => cases h; exact .drawn _ .s5
  | s5 => cases h; exact .more _ .s6
  | s6 => cases h; exact .more _ .s7
  | s7 => cases h; exact .complete s _
  | _ => cases h

theorem decStep_goesTo (n : StepNo) (s : State) : (decStep n s).GoesTo s n.nextOfDec := by
  cases n with
  | s0 => exact .check (.check (.goTo s .s1))
  | s1 => exact .check (.goTo s .s2)
  | s2 =>
    change Ctl.GoesTo s _ (decStep2 s)
    refine .readIn fun v => ?_
    split
    · exact .goTo s .s3
    · exact .raise s (by decide) (by decide)
  | s3 => exact .readIn fun _ => .readIn fun _ => .more _ .s4
  | s4 => exact .more _ .s5
  | s5 => exact .more _ .s6
  | s6 =>
    change Ctl.GoesTo s _ (decStep6 s)
    unfold decStep6
    split
    · exact .raise s (by decide) (by decide)
    · exact .more _ .s6b
  | s6b => exact .check (.goTo s .s7)
  | s7 =>
    change Ctl.GoesTo s _ (decStep7 s)
    refine .readRec fun v => ?_
    split
    · exact .goTo s .s8
    · exact .raise s (by decide) (by decide)
  | s8 =>
    change Ctl.GoesTo s _ (decStep8 s)
    refine .readRec fun v => ?_
    split
    · exact .goTo s .s9
    · exact .raise s (by decide) (by decide)
  | s9 => exact .readRec fun _ => .check (.goTo s .s10)
  | s10 => exact .readRec fun _ => .readRec fun _ => .complete s _

/-! ### Commands as their numbered steps -/

/-- Every command ends in `DONE` (R251). -/
theorem CommandEnd.st {s t : State} (h : CommandEnd s t) : t.st = .done := by
  obtain ⟨e, -, -, rfl⟩ | ⟨o, rfl | rfl⟩ := h <;> rfl

theorem CommandEnd.hostQueue {s t : State} (h : CommandEnd s t) : t.hostQueue = s.hostQueue := by
  obtain ⟨e, -, -, rfl⟩ | ⟨o, rfl | rfl⟩ := h <;> rfl

/-- The command of the word `w` is in progress at step `n`, with no host access to come. -/
structure State.AtStep (s : State) (w : Word) (n : StepNo) : Prop where
  busy : s.st = .busy
  queue : s.hostQueue = []
  cmd : s.cmd = w
  stepNo : s.stepNo = n

theorem State.atStep_start {s : State} {w : Word} (hq : s.hostQueue = []) (hc : s.cmd = w) : s.start.AtStep w .s0 :=
  ⟨rfl, hq, hc, rfl⟩

section AtStep
variable {s : State} {w : Word} {n m : StepNo} {c : Ctl}

theorem State.AtStep.step_kdf (h : s.AtStep 0x00000001 n) (hc : kdfStep n s = some c) : step s = .next c.state :=
  Machine.step_kdf h.busy h.queue h.cmd (h.stepNo.symm ▸ hc)

theorem State.AtStep.step_enc (h : s.AtStep 0x00000002 n) (hc : encStep n s = some c) : step s = .next c.state :=
  Machine.step_enc h.busy h.queue h.cmd (h.stepNo.symm ▸ hc)

theorem State.AtStep.step_dec (h : s.AtStep 0x00000003 n) : step s = .next (decStep n s).state :=
  h.stepNo ▸ Machine.step_dec h.busy h.queue h.cmd

/-- After the end of a command the machine stays where it is. -/
theorem CommandEnd.run {t : State} (h : CommandEnd s t) (hq : s.hostQueue = []) (k : Nat) :
    Host.Core.run core k t = .next t :=
  run_idle (by rw [h.st]; decide) (h.hostQueue.trans hq) k

/-- The machine runs a numbered step and then, unless the command has ended, what the command does from the next step on. -/
theorem State.AtStep.run_andThen (h : s.AtStep w n) (hstep : step s = .next c.state) (hc : c.GoesTo s (some m))
    {f : State → Ctl} {k : Nat} (hf : ∀ t : State, t.AtStep w m → Host.Core.run core k t = .next (f t).state) :
    Host.Core.run core (k + 1) s = .next (c.andThen f).state := by
  rw [run_succ hstep]
  cases hc with
  | ended hend => exact hend.run h.queue k
  | more v => exact hf _ ⟨h.busy, h.queue, h.cmd, rfl⟩
  | drawn v => exact hf _ ⟨h.busy, h.queue, h.cmd, rfl⟩

/-- The machine runs the last numbered step of a command. -/
theorem State.AtStep.run_last (h : s.AtStep w n) (hstep : step s = .next c.state) (hc : c.GoesTo s none) (k : Nat) :
    Host.Core.run core (k + 1) s = .next c.state := by
  rw [run_succ hstep]
  cases hc with
  | ended hend => exact hend.run h.queue k

theorem State.AtStep.run_kdf (h : s.AtStep 0x00000001 .s0) (k : Nat) :
    Host.Core.run core (k + 2) s = .next (kdfRun s).state :=
  h.run_andThen (h.step_kdf rfl) (kdfStep_goesTo (n := .s0) rfl) fun _ h =>
  h.run_last (h.step_kdf rfl) (kdfStep_goesTo (n := .s1) rfl) k

theorem State.AtStep.run_enc (h : s.AtStep 0x00000002 .s0) (k : Nat) :
    Host.Core.run core (k + 8) s = .next (encRun s).state :=
  h.run_andThen (h.step_enc rfl) (encStep_goesTo (n := .s0) rfl) fun _ h =>
  h.run_andThen (h.step_enc rfl) (encStep_goesTo (n := .s1) rfl) fun _ h =>
  h.run_andThen (h.step_enc rfl) (encStep_goesTo (n := .s2) rfl) fun _ h =>
  h.run_andThen (h.step_enc rfl) (encStep_goesTo (n := .s3) rfl) fun _ h =>
  h.run_andThen (h.step_enc rfl) (encStep_goesTo (n := .s4) rfl) fun _ h =>
  h.run_andThen (h.step_enc rfl) (encStep_goesTo (n := .s5) rfl) fun _ h =>
  h.run_andThen (h.step_enc rfl) (encStep_goesTo (n := .s6) rfl) fun _ h =>
  h.run_last (h.step_enc rfl) (encStep_goesTo (n := .s7) rfl) k

theorem State.AtStep.run_dec (h : s.AtStep 0x00000003 .s0) (k : Nat) :
    Host.Core.run core (k + 12) s = .next (decRun s).state :=
  h.run_andThen h.step_dec (decStep_goesTo .s0 _) fun _ h =>
  h.run_andThen h.step_dec (decStep_goesTo .s1 _) fun _ h =>
  h.run_andThen h.step_dec (decStep_goesTo .s2 _) fun _ h =>
  h.run_andThen h.step_dec (decStep_goesTo .s3 _) fun _ h =>
  h.run_andThen h.step_dec (decStep_goesTo .s4 _) fun _ h =>
  h.run_andThen h.step_dec (decStep_goesTo .s5 _) fun _ h =>
  h.run_andThen h.step_dec (decStep_goesTo .s6 _) fun _ h =>
  h.run_andThen h.step_dec (decStep_goesTo .s6b _) fun _ h =>
  h.run_andThen h.step_dec (decStep_goesTo .s7 _) fun _ h =>
  h.run_andThen h.step_dec (decStep_goesTo .s8 _) fun _ h =>
  h.run_andThen h.step_dec (decStep_goesTo .s9 _) fun _ h =>
  h.run_last h.step_dec (decStep_goesTo .s10 _) k

end AtStep

/-! ### The sequencer -/

/-- The words that decode to a command (R82). -/
theorem decodeCommand_ok {w : Word} {i : Instr} (h : decodeCommand w = .ok i) :
    i = .deriveKey ∧ w = 0x00000001 ∨ i = .encrypt ∧ w = 0x00000002 ∨ i = .decrypt ∧ w = 0x00000003 := by
  have hw : w.extractLsb' 8 24 ++ w.extractLsb' 0 8 = w :=
    (BitVec.extractLsb'_append_extractLsb'_eq_extractLsb' (by decide)).trans BitVec.extractLsb'_eq_self
  simp only [decodeCommand] at h
  split at h
  · cases h
  next hrsv =>
  rw [not_not.1 hrsv] at hw
  split at h
  next hop => cases h; rw [hop] at hw; exact .inl ⟨rfl, hw.symm⟩
  split at h
  next hop => cases h; rw [hop] at hw; exact .inr (.inl ⟨rfl, hw.symm⟩)
  split at h
  next hop => cases h; rw [hop] at hw; exact .inr (.inr ⟨rfl, hw.symm⟩)
  cases h

/-- A step of a command in progress is a numbered step, which ends the command or goes on at a later step (R28). -/
theorem step_inProgress {s t : State} (hs : s.st = .busy) (hq : s.hostQueue = []) (h : step s = .next t) :
    ∃ next c, Ctl.GoesTo s next c ∧ c.state = t ∧ ∀ m, next = some m → s.stepNo.place < m.place := by
  have hf := fetch_sequence hs hq
  rw [sequence] at hf
  cases hd : decodeCommand s.cmd with
  | rejected r =>
    rw [hd] at hf
    cases h.symm.trans (step_of_settle hf)
    exact ⟨none, _, .raise s (by decide) (by decide), Ctl.state_raise s .illegalCommand, nofun⟩
  | ok i =>
    obtain ⟨rfl, hc⟩ | ⟨rfl, hc⟩ | ⟨rfl, hc⟩ := decodeCommand_ok hd
    · cases hk : kdfStep s.stepNo s with
      | none => rw [hd, hk] at hf; cases h.symm.trans (step_of_fault hf)
      | some c =>
        cases h.symm.trans (step_kdf hs hq hc hk)
        exact ⟨_, c, kdfStep_goesTo hk, rfl, fun _ => StepNo.lt_nextOfKdf⟩
    · cases hk : encStep s.stepNo s with
      | none => rw [hd, hk] at hf; cases h.symm.trans (step_of_fault hf)
      | some c =>
        cases h.symm.trans (step_enc hs hq hc hk)
        exact ⟨_, c, encStep_goesTo hk, rfl, fun _ => StepNo.lt_nextOfEnc⟩
    · cases h.symm.trans (step_dec hs hq hc)
      exact ⟨_, _, decStep_goesTo s.stepNo s, rfl, fun _ => StepNo.lt_nextOfDec⟩

end Sys2Proof.Machine

namespace Sys2Proof

/-- Settles O44: the run of each command composes its numbered steps one by one. -/
theorem atomicCommandIsItsSteps : Obligations.AtomicCommandIsItsSteps := fun _ hq =>
  ⟨fun hc => (Machine.State.atStep_start hq hc).run_kdf 10, fun hc => (Machine.State.atStep_start hq hc).run_enc 4,
    fun hc => (Machine.State.atStep_start hq hc).run_dec 0⟩

/-- Settles O45: a numbered step after which the command is still in progress has gone on at a later step. -/
theorem stepNumbersIncrease : Obligations.StepNumbersIncrease := by
  intro s t hs hq h ht
  obtain ⟨next, c, hc, rfl, hlt⟩ := Machine.step_inProgress hs hq h
  cases hc with
  | ended hend => exact absurd (hend.st.symm.trans ht) (by decide)
  | more w n => exact hlt n rfl
  | drawn w n => exact hlt n rfl

end Sys2Proof

namespace Sys2Proof.Machine

/-! ### One rule per host access -/

/-- A write gives its index its value and leaves every other index alone. -/
theorem Memory.reads_write {w : Nat} {m : Memory w} (h : m.wf) (i : Nat) (v : BitVec w) :
    (m.write i v).read i = v ∧ ∀ j, j ≠ i → (m.write i v).read j = m.read j :=
  ⟨Memory.read_write_same h i v, fun _ hj => Memory.read_write_other m hj v⟩

section Host
variable {s t : State} {a : HostAccess} {q : List HostAccess}

/-- An access of the host between two commands that settles. -/
theorem step_hostAccess (hs : s.st ≠ .busy) (hq : s.hostQueue = a :: q) (h : hostAccess a (s.hostTook q) = .settle t) :
    step s = .next t := step_of_settle ((fetch_host hs hq).trans h)

/-- An access of the host while a command runs that settles. -/
theorem step_busyAccess (hs : s.st = .busy) (hq : s.hostQueue = a :: q) (h : busyAccess a (s.hostTook q) = .settle t) :
    step s = .next t := step_of_settle ((fetch_busyHost hs hq).trans h)

/-- An access of the host that does the same at any time. -/
theorem step_anyAccess (hq : s.hostQueue = a :: q) (h : hostAccess a (s.hostTook q) = .settle t)
    (hb : busyAccess a (s.hostTook q) = .settle t) : step s = .next t := by
  by_cases hs : s.st = .busy
  · exact step_busyAccess hs hq hb
  · exact step_hostAccess hs hq h

/-- The reset pin, at any time (R270). -/
theorem step_reset (hq : s.hostQueue = .reset :: q) : step s = .next (s.hostTook q).assertReset :=
  step_anyAccess hq rfl rfl

/-- A legal word written to `CMD` runs its command (R23). -/
theorem startCommand_of_ok {w : Word} {i : Instr} (h : decodeCommand w = .ok i) (s : State) :
    startCommand s w = .run i (s.setCmd w) := by rw [startCommand, h]

/-! The reads that answer what is held at any time (R21, R26, R33). -/

theorem step_readCmd (hq : s.hostQueue = .readReg .cmd :: q) :
    step s = .next { s with hostQueue := q, answer := some 0 } := step_anyAccess hq rfl rfl

theorem step_readPassLen (hq : s.hostQueue = .readReg .passLen :: q) :
    step s = .next { s with hostQueue := q, answer := some s.passLen } := step_anyAccess hq rfl rfl

theorem step_readInLen (hq : s.hostQueue = .readReg .inLen :: q) :
    step s = .next { s with hostQueue := q, answer := some s.inLen } := step_anyAccess hq rfl rfl

theorem step_readPass {i : Nat} (hi : s.hasEntry .pass i = true) (hq : s.hostQueue = .readBuf .pass i :: q) :
    step s = .next { s with hostQueue := q, answer := some (BitVec.ofNat 32 (s.pass.read i).toNat) } := by
  rw [BitVec.ofNat_toNat]
  exact step_anyAccess hq (if_pos hi) (if_pos hi)

theorem step_readIn {i : Nat} (hi : s.hasEntry .inp i = true) (hq : s.hostQueue = .readBuf .inp i :: q) :
    step s = .next { s with hostQueue := q, answer := some (BitVec.ofNat 32 (s.inBuf.read i).toNat) } := by
  rw [BitVec.ofNat_toNat]
  exact step_anyAccess hq (if_pos hi) (if_pos hi)

/-- The entries of `OUT` (R50). -/
theorem State.hasEntry_out {i : Nat} (s : State) (hi : i < 65572) : s.hasEntry .out i = true := decide_eq_true hi

/-- The fields of a `STATUS` word (R24). -/
theorem statusOf_fields (st : BitVec 2) (err : BitVec 4) :
    (statusOf st err).extractLsb' 0 2 = st ∧ (statusOf st err).extractLsb' 2 6 = 0 ∧
      (statusOf st err).extractLsb' 8 4 = err ∧ (statusOf st err).extractLsb' 12 20 = 0 := by
  revert st err; decide

end Host

/-! ### What changes the operands -/

/-- `t` has the build, the operand registers and buffers, and `CMD` of `s`. -/
structure State.SameOperands (s t : State) : Prop where
  build : t.build = s.build
  pass : t.pass = s.pass
  inBuf : t.inBuf = s.inBuf
  passLen : t.passLen = s.passLen
  inLen : t.inLen = s.inLen
  cmd : t.cmd = s.cmd

/-- `t` has the build of `s`, and its operands and `CMD` but for what the access `a` writes. -/
structure State.OperandsBut (a : HostAccess) (s t : State) : Prop where
  build : t.build = s.build
  pass : (∀ i v, a ≠ .writePass i v) → t.pass = s.pass
  inBuf : (∀ i v, a ≠ .writeIn i v) → t.inBuf = s.inBuf
  passLen : (∀ v, a ≠ .writeReg .passLen v) → t.passLen = s.passLen
  inLen : (∀ v, a ≠ .writeReg .inLen v) → t.inLen = s.inLen
  cmd : (∀ w, a ≠ .writeReg .cmd w) → t.cmd = s.cmd

section Operands
variable {s t u : State} {a : HostAccess}

theorem CommandEnd.sameOperands (h : CommandEnd s t) : s.SameOperands t := by
  obtain ⟨e, -, -, rfl⟩ | ⟨o, rfl | rfl⟩ := h <;> exact ⟨rfl, rfl, rfl, rfl, rfl, rfl⟩

/-- No numbered step writes an operand (R26). -/
theorem Ctl.GoesTo.sameOperands {next : Option StepNo} {c : Ctl} (h : c.GoesTo s next) : s.SameOperands c.state := by
  cases h with
  | ended h => exact h.sameOperands
  | more w n => exact ⟨rfl, rfl, rfl, rfl, rfl, rfl⟩
  | drawn w n => exact ⟨rfl, rfl, rfl, rfl, rfl, rfl⟩

/-- No instruction writes an operand (R26). -/
theorem exec_sameOperands {i : Instr} (h : exec i s = .next t) : s.SameOperands t := by
  cases hi : i.isCommand with
  | true =>
    obtain ⟨u, hu, hend⟩ := exec_command_end hi s
    cases h.symm.trans hu
    exact hend.sameOperands
  | false =>
    cases i with
    | envVersionV2 => cases h; exact (decStep_goesTo .s2 s).sameOperands
    | recMagic => cases h; exact (decStep_goesTo .s7 s).sameOperands
    | recAuthLenNone => cases h; exact (decStep_goesTo .s8 s).sameOperands
    | deriveKey | encrypt | decrypt => cases hi

theorem State.SameOperands.but (h : s.SameOperands t) : s.OperandsBut a t :=
  ⟨h.build, fun _ => h.pass, fun _ => h.inBuf, fun _ => h.passLen, fun _ => h.inLen, fun _ => h.cmd⟩

theorem State.OperandsBut.trans (h : s.OperandsBut a t) (h' : t.SameOperands u) : s.OperandsBut a u :=
  ⟨h'.build.trans h.build, fun ha => h'.pass.trans (h.pass ha), fun ha => h'.inBuf.trans (h.inBuf ha),
    fun ha => h'.passLen.trans (h.passLen ha), fun ha => h'.inLen.trans (h.inLen ha), fun ha => h'.cmd.trans (h.cmd ha)⟩

section
variable (h : s.SameOperands t)
include h

/-- Each write of the host writes its own operand alone. -/
theorem State.SameOperands.setPass (i : Nat) (v : CodePoint) : s.OperandsBut (.writePass i v) (t.setPass i v) :=
  ⟨h.build, fun ha => absurd rfl (ha i v), fun _ => h.inBuf, fun _ => h.passLen, fun _ => h.inLen, fun _ => h.cmd⟩
theorem State.SameOperands.setIn (i : Nat) (v : Byte) : s.OperandsBut (.writeIn i v) (t.setIn i v) :=
  ⟨h.build, fun _ => h.pass, fun ha => absurd rfl (ha i v), fun _ => h.passLen, fun _ => h.inLen, fun _ => h.cmd⟩
theorem State.SameOperands.setPassLen (v : Word) : s.OperandsBut (.writeReg .passLen v) (t.setPassLen v) :=
  ⟨h.build, fun _ => h.pass, fun _ => h.inBuf, fun ha => absurd rfl (ha v), fun _ => h.inLen, fun _ => h.cmd⟩
theorem State.SameOperands.setInLen (v : Word) : s.OperandsBut (.writeReg .inLen v) (t.setInLen v) :=
  ⟨h.build, fun _ => h.pass, fun _ => h.inBuf, fun _ => h.passLen, fun ha => absurd rfl (ha v), fun _ => h.cmd⟩
theorem State.SameOperands.setCmd (w : Word) : s.OperandsBut (.writeReg .cmd w) (t.setCmd w) :=
  ⟨h.build, fun _ => h.pass, fun _ => h.inBuf, fun _ => h.passLen, fun _ => h.inLen, fun ha => absurd rfl (ha w)⟩

end

/-- A move on the access `a` settles or starts an instruction with the operands of `s` but for what `a` writes. -/
def Fetched.OperandsBut (a : HostAccess) (s : State) : Fetched → Prop
  | .run _ t => s.OperandsBut a t
  | .settle t => s.OperandsBut a t
  | .fault _ => True

/-- An access that settles where its entry exists and is a fault elsewhere. -/
theorem Fetched.OperandsBut.guarded {b : Bool} {f : Fault} (h : s.OperandsBut a t) :
    (if b then Fetched.settle t else .fault f).OperandsBut a s := by
  cases b
  · trivial
  · exact h

theorem startCommand_operandsBut (h : s.SameOperands t) (w : Word) :
    (startCommand t w).OperandsBut (.writeReg .cmd w) s := by
  unfold startCommand
  split
  · exact h.setCmd w
  · exact (h.setCmd w).trans ⟨rfl, rfl, rfl, rfl, rfl, rfl⟩

/-- Between two commands each access but a reset writes its own operand alone. -/
theorem hostAccess_operandsBut (h : s.SameOperands t) (ha : a ≠ .reset) : (hostAccess a t).OperandsBut a s := by
  have hread (v : Word) : s.SameOperands (t.answered v) := { h with }
  cases a with
  | writeReg r v =>
    cases r with
    | cmd => exact startCommand_operandsBut h v
    | passLen => exact h.setPassLen v
    | inLen => exact h.setInLen v
    | status | outLen => exact h.but
  | readReg r => exact (hread _).but
  | writePass i v => exact .guarded (h.setPass i v)
  | writeIn i v => exact .guarded (h.setIn i v)
  | writeOut i v => exact .guarded h.but
  | readBuf b i => exact .guarded (hread _).but
  | reset => exact absurd rfl ha

/-- So it does while a command runs. -/
theorem busyAccess_operandsBut (h : s.SameOperands t) (ha : a ≠ .reset) : (busyAccess a t).OperandsBut a s := by
  have hops (o : Sampled) : s.SameOperands (t.setOps o).freeRead := { h with }
  have hread (v : Word) : s.SameOperands (t.answered v) := { h with }
  have hfree (v : Word) : s.SameOperands (t.freeRead.answered v) := { h with }
  cases a with
  | writeReg r v =>
    cases r with
    | passLen => exact (hops _).setPassLen v
    | inLen => exact (hops _).setInLen v
    | cmd | status | outLen => exact h.but
  | readReg r =>
    cases r with
    | status | outLen => exact (hfree _).but
    | cmd | passLen | inLen => exact (hread _).but
  | writePass i v => exact .guarded ((hops _).setPass i v)
  | writeIn i v => exact .guarded ((hops _).setIn i v)
  | writeOut i v => exact .guarded h.but
  | readBuf b i =>
    cases b with
    | out => exact .guarded (hfree _).but
    | pass | inp => exact .guarded (hread _).but
  | reset => exact absurd rfl ha

/-- A step that takes an access other than a reset writes the operand of that access alone. -/
theorem step_operandsBut {q : List HostAccess} (hq : s.hostQueue = a :: q) (ha : a ≠ .reset) (h : step s = .next t) :
    s.OperandsBut a t := by
  have htook : s.SameOperands (s.hostTook q) := ⟨rfl, rfl, rfl, rfl, rfl, rfl⟩
  have hf : (fetch s).OperandsBut a s := by
    by_cases hs : s.st = .busy
    · rw [fetch_busyHost hs hq]; exact busyAccess_operandsBut htook ha
    · rw [fetch_host hs hq]; exact hostAccess_operandsBut htook ha
  obtain ⟨i, u, hr, he⟩ | hset := step_next_cases h
  · rw [hr] at hf; exact hf.trans (exec_sameOperands he)
  · rwa [hset] at hf

/-- A step with no host access to come writes no operand. -/
theorem step_sameOperands (hq : s.hostQueue = []) (h : step s = .next t) : s.SameOperands t := by
  by_cases hs : s.st = .busy
  · obtain ⟨next, c, hc, rfl, -⟩ := step_inProgress hs hq h
    exact hc.sameOperands
  · cases h.symm.trans (step_of_settle (fetch_idle hs hq))
    exact ⟨rfl, rfl, rfl, rfl, rfl, rfl⟩

end Operands

/-! ### Draws -/

/-- A completion leaves the entropy source alone. -/
@[simp] theorem State.settle_entropy (s : State) (r : Result) : (s.settle r).entropy = s.entropy := by cases r <;> rfl

end Sys2Proof.Machine

namespace Sys2Proof

/-- Settles O19: with no access to come no operand is written, and an access but a reset writes its own alone. -/
theorem onlyHostChangesOperands : Obligations.OnlyHostChangesOperands := by
  intro s t h
  cases hq : s.hostQueue with
  | nil =>
    have f := Machine.step_sameOperands hq h
    exact ⟨f.build, fun _ => ⟨fun _ => f.pass, fun _ => f.inBuf, fun _ => f.passLen, fun _ => f.inLen, fun _ => f.cmd⟩⟩
  | cons a q =>
    simp only [List.head?_cons, ne_eq, Option.some.injEq]
    by_cases ha : a = .reset
    · subst ha
      cases h.symm.trans (Machine.step_reset hq)
      exact ⟨rfl, fun hn => absurd rfl hn⟩
    · have f := Machine.step_operandsBut hq ha h
      exact ⟨f.build, fun _ => ⟨f.pass, f.inBuf, f.passLen, f.inLen, f.cmd⟩⟩

/-- Settles O39: only the branch of `ENCRYPT` past its step 1 draws. -/
theorem drawCount : Obligations.DrawCount := by
  intro s
  refine ⟨⟨_, Machine.exec_encrypt s, ?_⟩, ⟨_, Machine.exec_decrypt s, ?_⟩, ⟨_, Machine.exec_deriveKey s, ?_⟩⟩
  · by_cases hp : s.passOperandOk = true
    · by_cases hl : s.inLen.toNat ≤ 65535
      · simp [hp, hl, not_lt.2 hl]
      · simp [hp, hl, not_le.1 hl]
    · simp [hp]
  · split
    · rfl
    · exact s.settle_entropy _
  · split
    · rfl
    split <;> rfl

/-- Settles O9: a write between two commands settles, and a written buffer reads as before but for the entry written. -/
theorem hostWritesReachOperands : Obligations.HostWritesReachOperands := by
  intro s q hs hwf
  obtain ⟨hpass, hin, -⟩ := hwf
  refine ⟨fun v hq => ?_, fun v hq => ?_, fun i v hi hq => ?_, fun i v hi hq => ?_⟩
  · exact Machine.step_hostAccess hs hq rfl
  · exact Machine.step_hostAccess hs hq rfl
  · exact ⟨_, Machine.step_hostAccess hs hq (if_pos hi), Machine.Memory.reads_write hpass i v⟩
  · exact ⟨_, Machine.step_hostAccess hs hq (if_pos hi), Machine.Memory.reads_write hin i v⟩

/-- Settles O12: an operand write lands and replaces the sampled operand by a free value; the reads of U3 answer free values. -/
theorem busyOperandAccess : Obligations.BusyOperandAccess := by
  intro s q hs hwf
  obtain ⟨hpass, hin, -, -, -, hopsPass, hopsIn⟩ := hwf
  refine ⟨fun v hq => ?_, fun v hq => ?_, fun i v hi hq => ?_, fun i v hi hq => ?_, fun hq => ?_, fun hq => ?_,
    fun i hi hq => ?_, Machine.step_readPassLen, Machine.step_readInLen, fun _ => Machine.step_readPass,
    fun _ => Machine.step_readIn⟩
  · exact Machine.step_busyAccess hs hq rfl
  · exact Machine.step_busyAccess hs hq rfl
  · obtain ⟨hsame, hother⟩ := Machine.Memory.reads_write hpass i v
    exact ⟨_, _, Machine.step_busyAccess hs hq (if_pos hi), hsame, hother, Machine.Memory.reads_write hopsPass i _⟩
  · obtain ⟨hsame, hother⟩ := Machine.Memory.reads_write hin i v
    exact ⟨_, _, Machine.step_busyAccess hs hq (if_pos hi), hsame, hother, Machine.Memory.reads_write hopsIn i _⟩
  · obtain ⟨hst, hlow, -, hhigh⟩ := Machine.statusOf_fields s.st.code ((Config.freeRead s.freeReads).extractLsb' 0 4)
    exact ⟨_, Machine.step_busyAccess hs hq rfl, hst.trans (by rw [hs]; rfl), hlow, hhigh⟩
  · exact Machine.step_busyAccess hs hq rfl
  · rw [BitVec.ofNat_toNat]
    exact Machine.step_busyAccess hs hq (if_pos (s.hasEntry_out hi))

/-- Settles O4: the write of `CMD` is taken and runs the decoded command. -/
theorem stepRunsWrittenCommand : Obligations.StepRunsWrittenCommand := fun s _ q _ hs hq hd =>
  Machine.step_of_run ((Machine.fetch_host hs hq).trans (Machine.startCommand_of_ok hd (s.hostTook q)))

/-- Settles O7: in `BUSY` the write of `CMD` settles with nothing done; its read answers 0 at any time. -/
theorem commandRegisterAccess : Obligations.CommandRegisterAccess := fun _ _ _ =>
  ⟨fun hs hq => Machine.step_busyAccess hs hq rfl, Machine.step_readCmd⟩

/-- Settles O8: a read answers and changes nothing. -/
theorem hostReadsAnswer : Obligations.HostReadsAnswer := by
  intro s q hs
  refine ⟨fun hq => ?_, Machine.step_readPassLen, Machine.step_readInLen, fun hq => ?_, fun _ => Machine.step_readPass,
    fun _ => Machine.step_readIn, fun i hi hq => ?_⟩
  · exact Machine.step_hostAccess hs hq rfl
  · exact Machine.step_hostAccess hs hq rfl
  · rw [BitVec.ofNat_toNat]
    exact Machine.step_hostAccess hs hq (if_pos (s.hasEntry_out hi))

/-- Settles O10: these writes settle with nothing done, in `BUSY` and outside it. -/
theorem readOnlyWritesIgnored : Obligations.ReadOnlyWritesIgnored := by
  intro s q
  refine ⟨fun v hq => ?_, fun v hq => ?_, fun i v hi hq => ?_⟩
  · exact Machine.step_anyAccess hq rfl rfl
  · exact Machine.step_anyAccess hq rfl rfl
  · exact Machine.step_anyAccess hq (if_pos (s.hasEntry_out hi)) (if_pos (s.hasEntry_out hi))

/-- Settles O13: the word is laid out for every state, the numbers are case by case. -/
theorem statusWordLayout : Obligations.StatusWordLayout :=
  ⟨fun s => Machine.statusOf_fields s.st.code s.err.code, rfl, rfl, rfl, fun r => by cases r <;> decide,
    rfl, rfl, rfl, rfl, rfl, rfl, rfl, rfl, rfl, rfl, fun e => by cases e <;> decide⟩

/-- Settles O14: the reset values, the idle block, and the reset pin at any time. -/
theorem resetValues : Obligations.ResetValues := by
  refine ⟨fun c => ?_, fun s hs hq => Machine.step_of_settle (Machine.fetch_idle hs hq),
    fun u q hq => ⟨_, Machine.step_reset hq, rfl⟩⟩
  have hstatus : (Machine.State.resetOf c).statusWord = 0 :=
    (by decide : Machine.statusOf 0 0 = 0)
  exact ⟨rfl, hstatus, rfl, rfl, rfl, rfl, rfl, rfl, fun _ => ⟨rfl, rfl, rfl⟩, fun _ => ⟨rfl, rfl⟩, rfl, rfl, rfl, rfl,
    rfl, rfl, rfl⟩

/-- Settles O57: every clause of the invariant holds of the reset values. -/
theorem resetHasInvariant : Obligations.ResetHasInvariant := Machine.State.inv_resetOf

end Sys2Proof

/-! Proofs: the buffers (R50). Every step, in `BUSY` or not, keeps them in canonical form, and an access to an entry that does
not exist is a fault. -/

namespace Sys2Proof.Machine

/-! ### What keeps the buffers in canonical form -/

section Memories
variable {s : State} (h : s.MemoriesWf)
include h

theorem State.MemoriesWf.setPass (i : Nat) (v : CodePoint) : (s.setPass i v).MemoriesWf :=
  ⟨Memory.wf_write h.1 i v, h.2⟩

theorem State.MemoriesWf.setIn (i : Nat) (v : Byte) : (s.setIn i v).MemoriesWf :=
  have ⟨hpass, hin, hrest⟩ := h
  ⟨hpass, Memory.wf_write hin i v, hrest⟩

theorem State.MemoriesWf.disturbPass (i : Nat) : (s.disturbPass i).MemoriesWf :=
  have ⟨hpass, hin, hout, hmsg, hrec, hopsPass, hopsIn⟩ := h
  ⟨hpass, hin, hout, hmsg, hrec, Memory.wf_write hopsPass i _, hopsIn⟩

theorem State.MemoriesWf.disturbIn (i : Nat) : (s.disturbIn i).MemoriesWf :=
  have ⟨hpass, hin, hout, hmsg, hrec, hopsPass, hopsIn⟩ := h
  ⟨hpass, hin, hout, hmsg, hrec, hopsPass, Memory.wf_write hopsIn i _⟩

theorem State.MemoriesWf.complete (o : List Byte) : (s.complete o).MemoriesWf :=
  have ⟨hpass, hin, _⟩ := h
  ⟨hpass, hin, Memory.wf_ofList o, Work.zero_memories_wf⟩

theorem State.MemoriesWf.raise (e : ErrCode) : (s.raise e).MemoriesWf :=
  have ⟨hpass, hin, _⟩ := h
  ⟨hpass, hin, Memory.wf_nil, Work.zero_memories_wf⟩

/-- The key step leaves a new `MSG` (R120). -/
theorem State.MemoriesWf.deriveKeyStep (n : StepNo) : (s.deriveKeyStep n).MemoriesWf :=
  have ⟨hpass, hin, hout, _, hrest⟩ := h
  ⟨hpass, hin, hout, Memory.wf_ofList _, hrest⟩

theorem State.MemoriesWf.setRecord (r : List Byte) (n : StepNo) : (s.setRecord r n).MemoriesWf :=
  have ⟨hpass, hin, hout, hmsg, _, hops⟩ := h
  ⟨hpass, hin, hout, hmsg, Memory.wf_ofList r, hops⟩

/-- The end of a command keeps the canonical form (R247, R248). -/
theorem State.MemoriesWf.commandEnd {t : State} (ht : CommandEnd s t) : t.MemoriesWf := by
  obtain ⟨e, -, -, rfl⟩ | ⟨o, rfl | rfl⟩ := ht
  · exact h.raise e
  · exact h.complete o
  · exact State.MemoriesWf.complete (s := s.afterDraw) h o

end Memories

/-! ### Numbered steps -/

/-- The state a numbered step leaves has its buffers in canonical form. -/
def Ctl.MemoriesWf (c : Ctl) : Prop := c.state.MemoriesWf

section Steps
variable {s : State} {c : Ctl} (h : s.MemoriesWf)
include h

/-- A check that raises, before the rest of a step. -/
theorem Ctl.MemoriesWf.check {p : Prop} [Decidable p] {e : ErrCode} (hc : c.MemoriesWf) :
    (if p then Ctl.raise s e else c).MemoriesWf := by
  split
  · exact h.raise e
  · exact hc

theorem Ctl.MemoriesWf.readIn {a n : Nat} {k : List Byte → Ctl} (hk : ∀ v, (k v).MemoriesWf) :
    (Ctl.readIn s a n k).MemoriesWf := by
  unfold Ctl.readIn
  split
  · exact hk _
  · exact h.raise _

theorem Ctl.MemoriesWf.readRec {a n : Nat} {k : List Byte → Ctl} (hk : ∀ v, (k v).MemoriesWf) :
    (Ctl.readRec s a n k).MemoriesWf := by
  unfold Ctl.readRec
  split
  · exact hk _
  · exact h.raise _

theorem kdfStep_memoriesWf {n : StepNo} (hc : kdfStep n s = some c) : c.MemoriesWf := by
  cases n with
  | s0 => cases hc; exact .check h (.check h h)
  | s1 => cases hc; exact (h.deriveKeyStep .s1).complete _
  | _ => cases hc

theorem encStep_memoriesWf {n : StepNo} (hc : encStep n s = some c) : c.MemoriesWf := by
  cases n with
  | s0 => cases hc; exact .check h h
  | s1 => cases hc; exact .check h h
  | s2 => cases hc; exact h.setRecord _ .s3
  | s3 => cases hc; exact h.setRecord _ .s4
  | s4 => cases hc; exact h
  | s5 => cases hc; exact h.deriveKeyStep .s6
  | s6 => cases hc; exact h
  | s7 => cases hc; exact h.complete _
  | _ => cases hc

theorem decStep_memoriesWf (n : StepNo) : (decStep n s).MemoriesWf := by
  cases n with
  | s0 => exact .check h (.check h h)
  | s1 => exact .check h h
  | s2 =>
    rw [decStep, decStep2]
    refine .readIn h fun v => ?_
    split
    · exact h
    · exact h.raise _
  | s3 => rw [decStep, decStep3]; exact .readIn h fun _ => .readIn h fun _ => h
  | s4 => exact h.deriveKeyStep .s5
  | s5 =>
    obtain ⟨hpass, hin, hout, hmsg, -, hops⟩ := h
    exact ⟨hpass, hin, hout, hmsg, Memory.wf_ofList _, hops⟩
  | s6 =>
    rw [decStep, decStep6]
    split
    · exact h.raise _
    · exact h.setRecord _ .s6b
  | s6b => exact .check h h
  | s7 =>
    rw [decStep, decStep7]
    refine .readRec h fun v => ?_
    split
    · exact h
    · exact h.raise _
  | s8 =>
    rw [decStep, decStep8]
    refine .readRec h fun v => ?_
    split
    · exact h
    · exact h.raise _
  | s9 => rw [decStep, decStep9]; exact .readRec h fun _ => .check h h
  | s10 => rw [decStep, decStep10]; exact .readRec h fun _ => .readRec h fun t => h.complete t

/-- Every instruction keeps the canonical form: a command ends in a completion, a discriminator is a step of `DECRYPT`. -/
theorem exec_memoriesWf {i : Instr} {t : State} (he : exec i s = .next t) : t.MemoriesWf := by
  cases hi : i.isCommand with
  | true =>
    obtain ⟨u, hu, hend⟩ := exec_command_end hi s
    cases he.symm.trans hu
    exact h.commandEnd hend
  | false =>
    cases i with
    | envVersionV2 => cases he; exact decStep_memoriesWf h .s2
    | recMagic => cases he; exact decStep_memoriesWf h .s7
    | recAuthLenNone => cases he; exact decStep_memoriesWf h .s8
    | deriveKey | encrypt | decrypt => cases hi

end Steps

/-! ### Every move -/

/-- A move settles, or starts an instruction, with the buffers in canonical form. -/
def Fetched.MemoriesWf : Fetched → Prop
  | .run _ s => s.MemoriesWf
  | .settle s => s.MemoriesWf
  | .fault _ => True

/-- An access that settles where its entry exists and is a fault elsewhere. -/
theorem Fetched.MemoriesWf.guarded {b : Bool} {s : State} {f : Fault} (h : s.MemoriesWf) :
    (if b then Fetched.settle s else .fault f).MemoriesWf := by
  cases b
  · trivial
  · exact h

theorem settleStep_memoriesWf {s : State} {o : Option Ctl} (ho : ∀ c, o = some c → c.MemoriesWf) :
    (settleStep s o).MemoriesWf := by
  cases o with
  | none => trivial
  | some c => exact ho c rfl

section Moves
variable {s : State} (h : s.MemoriesWf)
include h

theorem startCommand_memoriesWf (w : Word) : (startCommand s w).MemoriesWf := by
  unfold startCommand
  split
  · exact h
  · exact State.MemoriesWf.raise (s := s.setCmd w) h _

theorem hostAccess_memoriesWf (a : HostAccess) : (hostAccess a s).MemoriesWf := by
  cases a with
  | writeReg r v =>
    cases r with
    | cmd => exact startCommand_memoriesWf h v
    | status | passLen | inLen | outLen => exact h
  | readReg r => exact h
  | writePass i v => exact .guarded (h.setPass i v)
  | writeIn i v => exact .guarded (h.setIn i v)
  | writeOut i v => exact .guarded h
  | readBuf b i => exact .guarded (s := s.answered (s.readBuf b i)) h
  | reset => exact s.inv_assertReset.memories

/-- In `BUSY` a write of `PASS` or `IN` reaches the sampled operands too (U2). -/
theorem busyAccess_memoriesWf (a : HostAccess) : (busyAccess a s).MemoriesWf := by
  cases a with
  | writeReg r v => cases r <;> exact h
  | readReg r => cases r <;> exact h
  | writePass i v => exact .guarded ((h.disturbPass i).setPass i v)
  | writeIn i v => exact .guarded ((h.disturbIn i).setIn i v)
  | writeOut i v => exact .guarded h
  | readBuf b i => cases b <;> exact .guarded h
  | reset => exact s.inv_assertReset.memories

theorem sequence_memoriesWf : (sequence s).MemoriesWf := by
  unfold sequence
  split
  · exact settleStep_memoriesWf fun _ => kdfStep_memoriesWf h
  · exact settleStep_memoriesWf fun _ => encStep_memoriesWf h
  · split
    · exact decStep_memoriesWf h s.stepNo
    split
    · exact h
    · exact decStep_memoriesWf h s.stepNo
  · trivial
  · exact h.raise _

theorem fetch_memoriesWf : (fetch s).MemoriesWf := by
  cases hq : s.hostQueue with
  | nil =>
    by_cases hs : s.st = .busy
    · rw [fetch_sequence hs hq]; exact sequence_memoriesWf h
    · rw [fetch_idle hs hq]; exact h
  | cons a q =>
    by_cases hs : s.st = .busy
    · rw [fetch_busyHost hs hq]; exact busyAccess_memoriesWf (s := s.hostTook q) h a
    · rw [fetch_host hs hq]; exact hostAccess_memoriesWf (s := s.hostTook q) h a

end Moves

/-! ### Entries that do not exist -/

/-- An access of the host that is the same fault at any time. -/
theorem step_anyAccess_fault {s : State} {a : HostAccess} {q : List HostAccess} {f : Fault} (hq : s.hostQueue = a :: q)
    (h : hostAccess a (s.hostTook q) = .fault f) (hb : busyAccess a (s.hostTook q) = .fault f) : step s = .fault f := by
  by_cases hs : s.st = .busy
  · exact step_of_fault ((fetch_busyHost hs hq).trans hb)
  · exact step_of_fault ((fetch_host hs hq).trans h)

/-- `OUT` has no entry from its capacity on (R50). -/
theorem State.hasEntry_out_eq_false {i : Nat} (s : State) (hi : 65572 ≤ i) : s.hasEntry .out i = false :=
  decide_eq_false (not_lt.2 hi)

/-- An access guarded by an entry that does not exist. -/
theorem Fetched.guarded_eq_fault {b : Bool} {u : Fetched} {f : Fault} (hb : b = false) :
    (if b then u else .fault f) = .fault f := if_neg (Bool.eq_false_iff.1 hb)

end Sys2Proof.Machine

namespace Sys2Proof

/-- Settles O58: each move keeps the canonical form, and so does the instruction it starts. -/
theorem stepKeepsMemoriesCanonical : Obligations.StepKeepsMemoriesCanonical := by
  intro s t h ht
  have hf := Machine.fetch_memoriesWf h
  obtain ⟨i, u, hr, he⟩ | hs := Machine.step_next_cases ht
  · rw [hr] at hf
    exact Machine.exec_memoriesWf hf he
  · rwa [hs] at hf

/-- Settles O11: each access is guarded by the entry it names, in `BUSY` and outside it. -/
theorem missingEntriesFault : Obligations.MissingEntriesFault := by
  intro s q i
  refine ⟨fun v hi hq => ?_, fun v hi hq => ?_, fun v hi hq => ?_, fun b hi hq => ?_⟩
  · exact Machine.step_anyAccess_fault hq (Machine.Fetched.guarded_eq_fault hi) (Machine.Fetched.guarded_eq_fault hi)
  · exact Machine.step_anyAccess_fault hq (Machine.Fetched.guarded_eq_fault hi) (Machine.Fetched.guarded_eq_fault hi)
  · have hout := s.hasEntry_out_eq_false hi
    exact Machine.step_anyAccess_fault hq (Machine.Fetched.guarded_eq_fault hout) (Machine.Fetched.guarded_eq_fault hout)
  · refine Machine.step_anyAccess_fault hq (Machine.Fetched.guarded_eq_fault hi) ?_
    cases b <;> exact Machine.Fetched.guarded_eq_fault hi

end Sys2Proof

/-! Proofs: the encoding. The bytes of each instruction and the value they hold, what the decoder answers on them and on
everything else (R82 to R91), and the two places where a step of the machine decodes: the host's `CMD` write and the
discriminators of `DECRYPT` (R91, R97). -/

namespace Sys2Proof

/-! ### The bytes of an instruction -/

/-- The bytes of an instruction fill its format. -/
@[simp] theorem length_encode (i : Instr) : (encode i).length = i.format.size := by cases i <;> rfl

/-- The value of an instruction's own bytes decodes to it. -/
theorem decodeValue_encode (i : Instr) : decodeValue i.format (leNum (encode i)) = .ok i := by cases i <;> rfl

/-- Byte strings of one length that hold one number are the same. -/
theorem eq_of_leNum_eq {bs cs : List Byte} (hlen : bs.length = cs.length) (h : leNum bs = leNum cs) : bs = cs := by
  rw [← leBytes_leNum bs, hlen, h, leBytes_leNum]

/-! ### The decoder -/

/-- A number that fits in a field is the number the field holds. -/
theorem eq_toNat_of_ofNat_eq {n v : Nat} {c : BitVec n} (h : BitVec.ofNat n v = c) (hv : v < 2 ^ n) : v = c.toNat := by
  rw [← h, BitVec.toNat_ofNat, Nat.mod_eq_of_lt hv]

/-- A format with one legal value (R83, R85) decodes to its one row, and on that value only. -/
theorem eq_of_decodeOne {n v : Nat} {c : BitVec n} {i j : Instr} {r : Reject} (hv : v < 2 ^ n)
    (h : (if BitVec.ofNat n v = c then Decoded.ok j else .rejected r) = .ok i) : j = i ∧ v = c.toNat := by
  split at h
  next hc => cases h; exact ⟨rfl, eq_toNat_of_ofNat_eq hc hv⟩
  next => cases h

/-- A value that fits in its format decodes only to an instruction of that format whose bytes hold it. -/
theorem eq_of_decodeValue {f : Format} {v : Nat} {i : Instr} (hv : v < 256 ^ f.size) (h : decodeValue f v = .ok i) :
    i.format = f ∧ v = leNum (encode i) := by
  cases f with
  | commandWord =>
    obtain ⟨rfl, hw⟩ | ⟨rfl, hw⟩ | ⟨rfl, hw⟩ := Machine.decodeCommand_ok h <;>
      exact ⟨rfl, (eq_toNat_of_ofNat_eq hw hv).trans rfl⟩
  | version | magic | authLen =>
    obtain ⟨rfl, hc⟩ := eq_of_decodeOne hv h
    exact ⟨rfl, hc⟩

/-- The decoder reads the first bytes of `bs`, as many as the format has, and hands on the others. -/
theorem decode_eq_ok_iff {f : Format} {bs rest : List Byte} {i : Instr} :
    decode f bs = .ok (i, rest) ↔
      f.size ≤ bs.length ∧ decodeValue f (leNum (bs.take f.size)) = .ok i ∧ bs.drop f.size = rest := by
  unfold decode
  by_cases hlen : bs.length < f.size
  · simp [hlen]
  · cases hd : decodeValue f (leNum (bs.take f.size)) <;> simp [hlen, not_lt.1 hlen]

/-- What is encoded decodes, whatever follows it. -/
theorem decode_encode (i : Instr) (rest : List Byte) : decode i.format (encode i ++ rest) = .ok (i, rest) := by
  have hlen := length_encode i
  rw [decode_eq_ok_iff, List.take_left' hlen, List.drop_left' hlen]
  exact ⟨by simp, decodeValue_encode i, rfl⟩

/-- What decodes is an encoding and what follows it. -/
theorem eq_encode_of_decode {f : Format} {bs rest : List Byte} {i : Instr} (h : decode f bs = .ok (i, rest)) :
    i.format = f ∧ bs = encode i ++ rest := by
  obtain ⟨hlen, hval, rfl⟩ := decode_eq_ok_iff.1 h
  have htake : (bs.take f.size).length = f.size := List.length_take_of_le hlen
  have hlt := leNum_lt (bs.take f.size)
  rw [htake] at hlt
  obtain ⟨rfl, hnum⟩ := eq_of_decodeValue hlt hval
  have henc := eq_of_leNum_eq (htake.trans (length_encode i).symm) hnum
  exact ⟨rfl, by rw [← henc, List.take_append_drop]⟩

/-- The words that decode, and to what (R82). -/
theorem decodeCommand_eq_ok_iff {w : Word} {i : Instr} : decodeCommand w = .ok i ↔
    i = .deriveKey ∧ w = 0x00000001 ∨ i = .encrypt ∧ w = 0x00000002 ∨ i = .decrypt ∧ w = 0x00000003 := by
  refine ⟨Machine.decodeCommand_ok, ?_⟩
  rintro (⟨rfl, rfl⟩ | ⟨rfl, rfl⟩ | ⟨rfl, rfl⟩) <;> rfl

/-- A word that is none of the three commands is rejected (R91). -/
theorem decodeCommand_rejected {w : Word} (h1 : w ≠ 0x00000001) (h2 : w ≠ 0x00000002) (h3 : w ≠ 0x00000003) :
    ∃ r, decodeCommand w = .rejected r := by
  cases hd : decodeCommand w with
  | rejected r => exact ⟨r, rfl⟩
  | ok i => simp only [decodeCommand_eq_ok_iff, h1, h2, h3, and_false, or_self] at hd

namespace Machine

/-! ### The two places where a step decodes -/

/-- A word written to `CMD` that is no command completes with `IllegalCommand` (R91, R244). -/
theorem startCommand_of_rejected {w : Word} {r : Reject} (h : decodeCommand w = .rejected r) (s : State) :
    startCommand s w = .settle ((s.setCmd w).raise .illegalCommand) := by rw [startCommand, h]

/-! Where the discriminators stand (R212, R218, R219). -/

theorem State.discriminator_s2 {s : State} (h : s.stepNo = .s2) :
    s.discriminator = some (.version, [s.work.ops.inBuf.read 0]) := by rw [State.discriminator, h]; rfl

theorem State.discriminator_s7 {s : State} (h : s.stepNo = .s7) :
    s.discriminator = some (.magic, s.work.recBuf.readRange 0 4) := by rw [State.discriminator, h]

theorem State.discriminator_s8 {s : State} (h : s.stepNo = .s8) :
    s.discriminator = some (.authLen, s.work.recBuf.readRange 4 2) := by rw [State.discriminator, h]

/-- A discriminator that decodes where `DECRYPT` has come to is run (R97). -/
theorem step_of_discriminator {s : State} {f : Format} {bs rest : List Byte} {i : Instr} (hs : s.st = .busy)
    (hq : s.hostQueue = []) (hc : s.cmd = 0x00000003) (hf : s.discriminator = some (f, bs))
    (hd : decode f bs = .ok (i, rest)) : step s = exec i s := by
  apply step_of_run
  rw [fetch_sequence hs hq, sequence, hc, show decodeCommand 0x00000003 = .ok .decrypt from rfl]
  simp only [hf, hd]

end Machine

/-- Settles O1: the bytes taken hold the value of the instruction's own bytes, so they are those bytes. -/
theorem decodeAndEncodeAgree : Obligations.DecodeAndEncodeAgree := by
  intro f bs rest i
  refine ⟨eq_encode_of_decode, ?_⟩
  rintro ⟨rfl, rfl⟩
  exact decode_encode i rest

/-- Settles O2: a word that decodes is one of the three, and each of the three decodes to its command. -/
theorem commandWordsDecode : Obligations.CommandWordsDecode := by
  intro w
  refine ⟨?_, ?_, ?_, decodeCommand_rejected⟩ <;> simp [decodeCommand_eq_ok_iff]

/-- Settles O6: the write of `CMD` is taken and its word, which is rejected, raises `IllegalCommand`. -/
theorem illegalCommandCompletes : Obligations.IllegalCommandCompletes := by
  intro s w q hs hq h1 h2 h3
  obtain ⟨r, hr⟩ := decodeCommand_rejected h1 h2 h3
  exact Machine.step_hostAccess hs hq (Machine.startCommand_of_rejected hr (s.hostTook q))

/-- Settles O3: the tables' bytes are encodings with nothing after them; the near misses go by the law of each format. -/
theorem specBytesDecode : Obligations.SpecBytesDecode :=
  ⟨decode_encode .deriveKey [], decode_encode .encrypt [], decode_encode .decrypt [], rfl,
    decode_encode .envVersionV2 [], decode_version 1, decode_encode .recMagic [], decode_magic rfl,
    decode_encode .recAuthLenNone [], decode_authLen rfl⟩

/-- Settles O5: the three steps are those at which a discriminator stands, and each decodes the bytes named. -/
theorem stepRunsDiscriminator : Obligations.StepRunsDiscriminator := fun _ _ _ hs hq hc =>
  ⟨fun hn => Machine.step_of_discriminator hs hq hc (Machine.State.discriminator_s2 hn),
    fun hn => Machine.step_of_discriminator hs hq hc (Machine.State.discriminator_s7 hn),
    fun hn => Machine.step_of_discriminator hs hq hc (Machine.State.discriminator_s8 hn)⟩

end Sys2Proof

/-! Proofs: the KDF unit. The message schedule of SHA-256 (R116) and its padding (R113), the UTF-16LE encoder (R110), and the
command `DERIVE_KEY` (R122). -/

namespace Sys2Proof.Machine

/-! ### The message schedule (R116) -/

/-- Piece `i` of a list is its `k` elements from index `k * i`. -/
theorem getElem?_pieces {α : Type} (k : Nat) {n i : Nat} (h : i < n) (l : List α) :
    (pieces k n l)[i]? = some ((l.drop (k * i)).take k) := by
  induction n generalizing i l with
  | zero => exact absurd h (Nat.not_lt_zero i)
  | succ n ih =>
    cases i with
    | zero => rfl
    | succ i =>
      rw [pieces, List.getElem?_cons_succ, ih (Nat.lt_of_succ_lt_succ h), List.drop_drop, Nat.mul_succ, Nat.add_comm]

/-- A word is read from four bytes, whatever follows them (R8). -/
@[simp] theorem be32Word_take (bs : List Byte) : be32Word (bs.take 4) = be32Word bs := by
  rw [be32Word, be32Word, List.take_take, min_self]

/-- The word that an extension adds last follows from the words before it. -/
theorem shaExtend_succ (n : Nat) (l : List Word) :
    shaExtend (n + 1) l = shaNextW (shaExtend n l) :: shaExtend n l := by
  induction n generalizing l with
  | zero => rfl
  | succ n ih => exact ih (shaNextW l :: l)

@[simp] theorem length_shaExtend (n : Nat) (l : List Word) : (shaExtend n l).length = l.length + n := by
  induction n with
  | zero => rfl
  | succ n ih => rw [shaExtend_succ, List.length_cons, ih, Nat.add_assoc]

/-- Without its latest `k` words an extension is the one that adds `k` words less. -/
theorem drop_shaExtend (n k : Nat) (l : List Word) : (shaExtend (n + k) l).drop k = shaExtend n l := by
  induction k with
  | zero => rfl
  | succ k ih => rw [← Nat.add_assoc, shaExtend_succ, List.drop_succ_cons, ih]

/-- The words of a block, the latest first: what the schedule extends. -/
def blockWords (block : List Byte) : List Word := ((pieces 4 16 block).map be32Word).reverse

@[simp] theorem length_blockWords (block : List Byte) : (blockWords block).length = 16 := by simp [blockWords]

theorem shaSchedule_eq (block : List Byte) : shaSchedule block = (shaExtend 48 (blockWords block)).reverse := rfl

@[simp] theorem length_shaSchedule (block : List Byte) : (shaSchedule block).length = 64 := by simp [shaSchedule_eq]

/-- Word `i` of the schedule is in every extension of the block's words that goes as far, counted from the latest word. -/
theorem getD_shaSchedule (block : List Byte) {n i j : Nat} (hn : n ≤ 48) (h : i + j = n + 15) :
    (shaSchedule block).getD i 0 = (shaExtend n (blockWords block)).getD j 0 := by
  obtain ⟨k, hk⟩ := Nat.exists_eq_add_of_le hn
  have hlen : (shaExtend 48 (blockWords block)).length = 64 := by simp
  have hidx : 64 - 1 - i = k + j := by omega
  calc (shaSchedule block).getD i 0
      = (shaExtend 48 (blockWords block)).getD (k + j) 0 := by
        rw [shaSchedule_eq, List.getD_reverse _ (by omega), hlen, hidx]
    _ = (shaExtend n (blockWords block)).getD j 0 := by
        rw [← drop_shaExtend n k, ← hk, List.getD_eq_getElem?_getD, List.getD_eq_getElem?_getD, List.getElem?_drop]

/-- The schedule starts with the words of the block. -/
theorem shaSchedule_first (block : List Byte) {t : Nat} (ht : t < 16) :
    (shaSchedule block).getD t 0 = be32Word (block.drop (4 * t)) := by
  have hlen : ((pieces 4 16 block).map be32Word).length = 16 := by simp
  have hidx : 16 - 1 - (15 - t) = t := by omega
  calc (shaSchedule block).getD t 0
      = (blockWords block).getD (15 - t) 0 := getD_shaSchedule block (n := 0) (by omega) (by omega)
    _ = ((pieces 4 16 block).map be32Word).getD t 0 := by
        rw [blockWords, List.getD_reverse _ (by omega), hlen, hidx]
    _ = be32Word (block.drop (4 * t)) := by
        rw [List.getD_eq_getElem?_getD, List.getElem?_map, getElem?_pieces 4 ht, Option.map_some, Option.getD_some,
          be32Word_take]

/-- Every later word follows from the words before it. -/
theorem shaSchedule_next (block : List Byte) {t : Nat} (ht : 16 ≤ t) (ht' : t < 64) :
    let w := shaSchedule block
    w.getD t 0 = ssig1 (w.getD (t - 2) 0) + w.getD (t - 7) 0 + ssig0 (w.getD (t - 15) 0) + w.getD (t - 16) 0 := by
  obtain ⟨n, rfl⟩ := Nat.exists_eq_add_of_le' ht
  have hw {i j : Nat} (h : i + j = n + 15) := getD_shaSchedule block (by omega : n ≤ 48) h
  calc (shaSchedule block).getD (n + 16) 0
      = (shaExtend (n + 1) (blockWords block)).getD 0 0 := getD_shaSchedule block (by omega) (by omega)
    _ = shaNextW (shaExtend n (blockWords block)) := by rw [shaExtend_succ, List.getD_cons_zero]
    _ = _ := by
        rw [shaNextW, hw (j := 1) (by omega), hw (j := 6) (by omega), hw (j := 14) (by omega), hw (j := 15) (by omega)]

/-! ### The padded message (R113) -/

/-- The bytes of a number, most significant first, give it back when read from the last, modulo the width written (R8). -/
theorem leNum_reverse_beBytes (k v : Nat) : leNum (beBytes k v).reverse = v % 256 ^ k := by
  rw [beBytes, List.reverse_reverse, leNum_leBytes]

/-- What stands before the length field: the message, the byte `80`, and the zeros. -/
def shaBody (m : List Byte) : List Byte := m ++ [0x80] ++ List.replicate ((119 - m.length % 64) % 64) 0x00

theorem shaPad_eq (m : List Byte) : shaPad m = shaBody m ++ beBytes 8 (8 * m.length) := rfl

theorem length_shaBody (m : List Byte) : (shaBody m).length = m.length + 1 + (119 - m.length % 64) % 64 := by
  simp [shaBody]; omega

theorem length_shaPad (m : List Byte) : (shaPad m).length = (shaBody m).length + 8 := by
  simp [shaPad_eq, beBytes]

/-- The body ends in zeros. -/
theorem getD_shaBody (m : List Byte) {i : Nat} (h : m.length < i) (h' : i < (shaBody m).length) :
    (shaBody m).getD i 0 = 0 := by
  rw [length_shaBody] at h'
  have hlen : (m ++ [(0x80 : Byte)]).length = m.length + 1 := List.length_append
  rw [shaBody, List.getD_append_right _ _ _ _ (by omega), List.getD_replicate _ (by omega)]

/-! ### UTF-16LE (R110) -/

theorem isScalar_iff (c : CodePoint) :
    isScalar c = true ↔ c.toNat < 0xD800 ∨ 0xE000 ≤ c.toNat ∧ c.toNat ≤ 0x10FFFF := by
  rw [isScalar, Bool.or_eq_true, Bool.and_eq_true, decide_eq_true_iff, decide_eq_true_iff, decide_eq_true_iff]

/-- An entry below 0x10000 is one code unit. -/
theorem utf16Entry_of_lt {c : CodePoint} (h : c.toNat < 0x10000) : utf16Entry c = le16 c.toNat := if_pos h

/-- An entry from 0x10000 on is a surrogate pair. -/
theorem utf16Entry_of_le {c : CodePoint} (h : 0x10000 ≤ c.toNat) :
    utf16Entry c = le16 (0xD800 + (c.toNat - 0x10000) / 1024) ++ le16 (0xDC00 + (c.toNat - 0x10000) % 1024) :=
  if_neg (not_lt.2 h)

/-- No entry is encoded by nothing. -/
theorem utf16Entry_ne_nil (c : CodePoint) : utf16Entry c ≠ [] := by
  obtain h | h := lt_or_ge c.toNat 0x10000
  · rw [utf16Entry_of_lt h]; exact List.cons_ne_nil _ _
  · rw [utf16Entry_of_le h]; exact List.cons_ne_nil _ _

/-- The first code unit of a string can be read off it, and so can what follows. -/
theorem le16_append_inj {u v : Nat} {xs ys : List Byte} (hu : u < 0x10000) (hv : v < 0x10000)
    (h : le16 u ++ xs = le16 v ++ ys) : u = v ∧ xs = ys := by
  obtain ⟨huv, hxs⟩ := List.append_inj h (by rw [le16, le16, length_leBytes, length_leBytes])
  have hnum := congrArg leNum huv
  rw [le16, le16, leNum_leBytes, leNum_leBytes] at hnum
  exact ⟨by omega, hxs⟩

/-- A code unit that is no surrogate is not the first of a surrogate pair. -/
theorem utf16Entry_of_lt_append_ne {c d : CodePoint} {xs ys : List Byte} (hc : isScalar c = true)
    (hd : isScalar d = true) (hlt : c.toNat < 0x10000) (hle : 0x10000 ≤ d.toNat) :
    utf16Entry c ++ xs ≠ utf16Entry d ++ ys := by
  rw [isScalar_iff] at hc hd
  rw [utf16Entry_of_lt hlt, utf16Entry_of_le hle, List.append_assoc]
  intro h
  obtain ⟨hunit, -⟩ := le16_append_inj hlt (by omega) h
  omega

/-- The first entry of a string of scalar values can be read off its encoding, and so can the encoding of the rest. -/
theorem utf16Entry_append_inj {c d : CodePoint} {xs ys : List Byte} (hc : isScalar c = true) (hd : isScalar d = true)
    (h : utf16Entry c ++ xs = utf16Entry d ++ ys) : c = d ∧ xs = ys := by
  obtain hc' | hc' := lt_or_ge c.toNat 0x10000 <;> obtain hd' | hd' := lt_or_ge d.toNat 0x10000
  · rw [utf16Entry_of_lt hc', utf16Entry_of_lt hd'] at h
    exact (le16_append_inj hc' hd' h).imp_left BitVec.eq_of_toNat_eq
  · exact absurd h (utf16Entry_of_lt_append_ne hc hd hc' hd')
  · exact absurd h.symm (utf16Entry_of_lt_append_ne hd hc hd' hc')
  · rw [isScalar_iff] at hc hd
    rw [utf16Entry_of_le hc', utf16Entry_of_le hd', List.append_assoc, List.append_assoc] at h
    obtain ⟨hhi, hrest⟩ := le16_append_inj (by omega) (by omega) h
    obtain ⟨hlo, hxs⟩ := le16_append_inj (by omega) (by omega) hrest
    exact ⟨BitVec.eq_of_toNat_eq (by omega), hxs⟩

/-- Passphrases of scalar values with one encoding are the same (R110). -/
theorem utf16le_inj {p q : List CodePoint} (hp : p.all isScalar = true) (hq : q.all isScalar = true)
    (h : utf16le p = utf16le q) : p = q := by
  induction p generalizing q with
  | nil =>
    cases q with
    | nil => rfl
    | cons d q => exact absurd h.symm (List.append_ne_nil_of_left_ne_nil (utf16Entry_ne_nil d) _)
  | cons c p ih =>
    cases q with
    | nil => exact absurd h (List.append_ne_nil_of_left_ne_nil (utf16Entry_ne_nil c) _)
    | cons d q =>
      rw [List.all_cons, Bool.and_eq_true] at hp hq
      obtain ⟨hc, hp⟩ := hp
      obtain ⟨hd, hq⟩ := hq
      obtain ⟨rfl, hrest⟩ := utf16Entry_append_inj hc hd h
      rw [ih hp hq hrest]

end Sys2Proof.Machine

namespace Sys2Proof

open Machine

/-- Settles O49: the first 16 words are the block's, and each of the 48 words after them extends the words before it. -/
theorem messageScheduleRecurrence : Obligations.MessageScheduleRecurrence := fun _ =>
  ⟨length_shaSchedule _, fun _ => shaSchedule_first _, fun _ => shaSchedule_next _⟩

/-- Settles O50: the length field follows the message, the byte `80` and fewer than 64 zeros. -/
theorem messagePaddingShape : Obligations.MessagePaddingShape := by
  intro m hm
  have hbody := length_shaBody m
  have hpad := length_shaPad m
  have hfield : (shaPad m).length - 8 = (shaBody m).length := by omega
  refine ⟨by omega, by omega, ⟨_, (List.append_assoc _ _ _).symm⟩, ?_, fun i hi hi' => ?_⟩
  · rw [hfield, shaPad_eq, List.drop_left, leNum_reverse_beBytes]
    omega
  · rw [hfield] at hi'
    rw [shaPad_eq, List.getD_append _ _ _ _ hi', getD_shaBody m hi hi']

/-- Settles O51: the encoding of an entry by its two cases, and the entries read off an encoding one by one. -/
theorem utf16Faithful : Obligations.Utf16Faithful := by
  refine ⟨fun c hc => ?_, fun c hc hc' => ⟨_, _, utf16Entry_of_le hc, by omega⟩, fun _ _ => utf16le_inj⟩
  rw [utf16Entry_of_lt hc, le16, leBytes, leBytes, leBytes, Nat.mod_eq_of_lt (a := c.toNat / 256) (by omega)]

/-- Settles O20: the three cases of the command's law. -/
theorem deriveKeyCommand : Obligations.DeriveKeyCommand := by
  intro s
  rw [exec_deriveKey]
  refine ⟨fun hb hp => ⟨?_, length_sha256 _⟩, fun hb hp => ?_, fun hb => ?_⟩
  · rw [hb, hp]; rfl
  · rw [hb, hp]; rfl
  · rw [if_pos hb]

end Sys2Proof

/-! Proofs: the AES unit. The inverse round transformations (R148 to R150), the inverse law of the block operations (R153), and
the recurrence of the key schedule (R146). -/

namespace Sys2Proof.Machine

/-! ### The round transformations (R148 to R150) -/

theorem Block.map_map_cancel {f g : Byte → Byte} (h : ∀ a, f (g a) = a) (s : Block) : (s.map g).map f = s := by
  simp only [Block.map, Column.map, h]

theorem Block.mapColumns_mapColumns_cancel {f g : Column → Column} (h : ∀ c, f (g c) = c) (s : Block) :
    (s.mapColumns g).mapColumns f = s := by
  simp only [Block.mapColumns, h]

@[simp] theorem invSubBytes_subBytes (s : Block) : invSubBytes (subBytes s) = s := Block.map_map_cancel invSbox_sbox s

@[simp] theorem subBytes_invSubBytes (s : Block) : subBytes (invSubBytes s) = s := Block.map_map_cancel sbox_invSbox s

@[simp] theorem invShiftRows_shiftRows (s : Block) : invShiftRows (shiftRows s) = s := rfl

@[simp] theorem shiftRows_invShiftRows (s : Block) : shiftRows (invShiftRows s) = s := rfl

/-! Products with the constants of `MixColumns` and `InvMixColumns`, in terms of doubling (R141). -/

theorem gmul_2 (a : Byte) : gmul a 2 = xtime a := by
  simp [gmul, List.range_succ, xtimes]

theorem gmul_3 (a : Byte) : gmul a 3 = a ^^^ xtime a := by
  simp [gmul, List.range_succ, xtimes]

theorem gmul_9 (a : Byte) : gmul a 9 = a ^^^ xtime (xtime (xtime a)) := by
  simp [gmul, List.range_succ, xtimes]

theorem gmul_11 (a : Byte) : gmul a 11 = a ^^^ xtime a ^^^ xtime (xtime (xtime a)) := by
  simp [gmul, List.range_succ, xtimes]

theorem gmul_13 (a : Byte) : gmul a 13 = a ^^^ xtime (xtime a) ^^^ xtime (xtime (xtime a)) := by
  simp [gmul, List.range_succ, xtimes]

theorem gmul_14 (a : Byte) : gmul a 14 = xtime a ^^^ xtime (xtime a) ^^^ xtime (xtime (xtime a)) := by
  simp [gmul, List.range_succ, xtimes]

theorem zero_gmul (k : Byte) : gmul 0 k = 0 := by simpa using gmul_xor 0 0 k

/-- The column that holds `a` in row 0 and zeros below it. -/
def Column.single (a : Byte) : Column := ⟨a, 0, 0, 0⟩

/-- The column with every entry one row further down, the last one on top. -/
def Column.rotate (c : Column) : Column := ⟨c.r3, c.r0, c.r1, c.r2⟩

/-- A column from its entries, by addition and rotation alone. -/
theorem Column.eq_xor_rotate (c : Column) :
    c = (single c.r0).xor ((single c.r1).xor ((single c.r2).xor (single c.r3).rotate).rotate).rotate := by
  simp [single, rotate, Column.xor]

/-- An additive function that commutes with rotation and keeps the columns of `Column.single` keeps every column. -/
theorem Column.eq_self_of_additive {f : Column → Column} (hadd : ∀ x y, f (x.xor y) = (f x).xor (f y))
    (hrotate : ∀ x, f x.rotate = (f x).rotate) (hsingle : ∀ a, f (single a) = single a) (c : Column) : f c = c := by
  rw [c.eq_xor_rotate]
  simp only [hadd, hrotate, hsingle]

/-- `MixColumns` on one column treats all rows alike (R150). -/
theorem mixColumn_rotate (c : Column) : mixColumn c.rotate = (mixColumn c).rotate := by
  simp only [mixColumn, Column.rotate]
  congr 1 <;> ac_rfl

/-- `InvMixColumns` on one column treats all rows alike (R150). -/
theorem invMixColumn_rotate (c : Column) : invMixColumn c.rotate = (invMixColumn c).rotate := by
  simp only [invMixColumn, Column.rotate]
  congr 1 <;> ac_rfl

theorem invMixColumn_mixColumn_single (a : Byte) : invMixColumn (mixColumn (.single a)) = .single a := by
  simp only [mixColumn, invMixColumn, Column.single, zero_gmul, xor_zero]
  simp only [gmul_2, gmul_3, gmul_9, gmul_11, gmul_13, gmul_14, xtime_xor]
  congr 1 <;> grind

theorem mixColumn_invMixColumn_single (a : Byte) : mixColumn (invMixColumn (.single a)) = .single a := by
  simp only [mixColumn, invMixColumn, Column.single, zero_gmul, xor_zero]
  simp only [gmul_2, gmul_3, gmul_9, gmul_11, gmul_13, gmul_14, xtime_xor]
  congr 1 <;> grind

theorem invMixColumn_mixColumn (c : Column) : invMixColumn (mixColumn c) = c :=
  Column.eq_self_of_additive (f := invMixColumn ∘ mixColumn)
    (fun x y => by simp only [Function.comp_apply, mixColumn_xor, invMixColumn_xor])
    (fun x => by simp only [Function.comp_apply, mixColumn_rotate, invMixColumn_rotate]) invMixColumn_mixColumn_single c

theorem mixColumn_invMixColumn (c : Column) : mixColumn (invMixColumn c) = c :=
  Column.eq_self_of_additive (f := mixColumn ∘ invMixColumn)
    (fun x y => by simp only [Function.comp_apply, mixColumn_xor, invMixColumn_xor])
    (fun x => by simp only [Function.comp_apply, mixColumn_rotate, invMixColumn_rotate]) mixColumn_invMixColumn_single c

@[simp] theorem invMixColumns_mixColumns (s : Block) : invMixColumns (mixColumns s) = s :=
  Block.mapColumns_mapColumns_cancel invMixColumn_mixColumn s

@[simp] theorem mixColumns_invMixColumns (s : Block) : mixColumns (invMixColumns s) = s :=
  Block.mapColumns_mapColumns_cancel mixColumn_invMixColumn s

/-- Adding a round key is its own inverse (R147). -/
@[simp] theorem addRoundKey_addRoundKey (rk : List Word) (n : Nat) (s : Block) :
    addRoundKey rk n (addRoundKey rk n s) = s :=
  Block.xor_xor_cancel s (roundKey rk n)

/-! ### The block operations (R151 to R153)

A round of encryption starts with `SubBytes` and `ShiftRows`, which is also all that its last round does before the round key; a
round of decryption starts with their inverses. So the rounds undo each other inside one such pair. -/

/-- The rounds of decryption take back the rounds of encryption, up to the last round's `SubBytes` and `ShiftRows`. -/
theorem decRounds_encRounds (rk : List Word) (n : Nat) (s : Block) :
    decRounds rk n (shiftRows (subBytes (encRounds rk n s))) = shiftRows (subBytes s) := by
  induction n with
  | zero => rfl
  | succ n ih =>
    have hround (t : Block) : decRound rk (n + 1) (shiftRows (subBytes (encRound rk (n + 1) t))) = shiftRows (subBytes t) := by
      simp [decRound, encRound]
    rw [encRounds, decRounds, hround, ih]

/-- The rounds of encryption take back the rounds of decryption, up to the last round's `InvShiftRows` and `InvSubBytes`. -/
theorem encRounds_decRounds (rk : List Word) (n : Nat) (s : Block) :
    encRounds rk n (invSubBytes (invShiftRows (decRounds rk n s))) = invSubBytes (invShiftRows s) := by
  induction n generalizing s with
  | zero => rfl
  | succ n ih =>
    have hround : encRound rk (n + 1) (invSubBytes (invShiftRows (decRound rk (n + 1) s))) = invSubBytes (invShiftRows s) := by
      simp [decRound, encRound]
    rw [decRounds, encRounds, ih, hround]

theorem aesDecBlock_aesEncBlock (rk : List Word) (x : Block) : aesDecBlock rk (aesEncBlock rk x) = x := by
  rw [aesDecBlock, aesEncBlock, addRoundKey_addRoundKey, decRounds_encRounds, invShiftRows_shiftRows, invSubBytes_subBytes,
    addRoundKey_addRoundKey]

theorem aesEncBlock_aesDecBlock (rk : List Word) (y : Block) : aesEncBlock rk (aesDecBlock rk y) = y := by
  rw [aesEncBlock, aesDecBlock, addRoundKey_addRoundKey, encRounds_decRounds, subBytes_invSubBytes, shiftRows_invShiftRows,
    addRoundKey_addRoundKey]

/-! ### The key schedule (R146) -/

/-- The word that an expansion adds last follows from the words before it. -/
theorem expandKey_succ (n i : Nat) (l : List Word) :
    expandKey (n + 1) i l = nextRoundWord (i + n) (expandKey n i l) :: expandKey n i l := by
  induction n generalizing i l with
  | zero => rfl
  | succ n ih => rw [expandKey, ih, Nat.add_right_comm]; rfl

/-- An expansion keeps the words of every shorter one. -/
theorem expandKey_suffix {n m : Nat} (h : n ≤ m) (i : Nat) (l : List Word) : expandKey n i l <:+ expandKey m i l := by
  induction m, h using Nat.le_induction with
  | base => exact List.suffix_rfl
  | succ m _ ih => rw [expandKey_succ]; exact ih.trans (List.suffix_cons _ _)

@[simp] theorem length_expandKey (n i : Nat) (l : List Word) : (expandKey n i l).length = l.length + n := by
  induction n with
  | zero => rfl
  | succ n ih => rw [expandKey_succ, List.length_cons, ih, Nat.add_assoc]

/-- Entry `j` of the end `l` of a list, counted from the other side, is entry `i` of the reversed list. -/
theorem getD_reverse_of_suffix {α : Type} {l m : List α} (h : l <:+ m) {i j : Nat} (hij : i + j + 1 = l.length) (d : α) :
    m.reverse.getD i d = l.getD j d := by
  obtain ⟨t, rfl⟩ := h
  have hidx : l.length - 1 - i = j := by omega
  rw [List.reverse_append, List.getD_append _ _ _ _ (by rw [List.length_reverse]; omega), List.getD_reverse _ (by omega), hidx]

/-- The words of a key, the latest first: what the key schedule expands. -/
def keyWords (key : List Byte) : List Word := ((pieces 4 8 key).map be32Word).reverse

@[simp] theorem length_keyWords (key : List Byte) : (keyWords key).length = 8 := by simp [keyWords]

theorem keyExp_eq (key : List Byte) : keyExp key = (expandKey 52 8 (keyWords key)).reverse := rfl

@[simp] theorem length_keyExp (key : List Byte) : (keyExp key).length = 60 := by simp [keyExp_eq]

/-- Word `i` of the expanded key is in every expansion of the key's words that goes as far, counted from the latest word. -/
theorem getD_keyExp (key : List Byte) {n i j : Nat} (hn : n ≤ 52) (h : i + j = n + 7) :
    (keyExp key).getD i 0 = (expandKey n 8 (keyWords key)).getD j 0 := by
  have hlen : (expandKey n 8 (keyWords key)).length = 8 + n := by simp
  rw [keyExp_eq]
  exact getD_reverse_of_suffix (expandKey_suffix hn 8 _) (by omega) 0

/-- The expanded key starts with the words of the key. -/
theorem keyExp_first (key : List Byte) {i : Nat} (hi : i < 8) :
    (keyExp key).getD i 0 = be32Word (key.drop (4 * i)) := by
  calc (keyExp key).getD i 0
      = (keyWords key).getD (7 - i) 0 := getD_keyExp key (n := 0) (Nat.zero_le 52) (by omega)
    _ = (keyWords key).reverse.getD i 0 :=
        (getD_reverse_of_suffix List.suffix_rfl (by rw [length_keyWords]; omega) 0).symm
    _ = be32Word (key.drop (4 * i)) := by
        rw [keyWords, List.reverse_reverse, List.getD_eq_getElem?_getD, List.getElem?_map, getElem?_pieces 4 hi,
          Option.map_some, Option.getD_some, be32Word_take]

/-- A byte as the most significant of a word is the byte shifted to the left by 24 (R145). -/
theorem wordOf_zeros (b : Byte) : wordOf b 0 0 0 = BitVec.ofNat 32 b.toNat <<< 24 := by
  revert b; decide +kernel

/-- Every later word follows from the words before it. -/
theorem keyExp_next (key : List Byte) {i : Nat} (hi : 8 ≤ i) (hi' : i < 60) :
    let rk := keyExp key
    rk.getD i 0 = rk.getD (i - 8) 0 ^^^
      (if i % 8 = 0 then subWord (rotWord (rk.getD (i - 1) 0)) ^^^ (BitVec.ofNat 32 (rcon (i / 8)).toNat <<< 24)
      else if i % 8 = 4 then subWord (rk.getD (i - 1) 0)
      else rk.getD (i - 1) 0) := by
  obtain ⟨n, rfl⟩ := Nat.exists_eq_add_of_le hi
  have hw {i j : Nat} (h : i + j = n + 7) := getD_keyExp key (by omega : n ≤ 52) h
  calc (keyExp key).getD (8 + n) 0
      = (expandKey (n + 1) 8 (keyWords key)).getD 0 0 := getD_keyExp key (by omega) (by omega)
    _ = nextRoundWord (8 + n) (expandKey n 8 (keyWords key)) := by rw [expandKey_succ, List.getD_cons_zero]
    _ = _ := by rw [nextRoundWord, hw (i := 8 + n - 8) (j := 7) (by omega),
          hw (i := 8 + n - 1) (j := 0) (by omega), wordOf_zeros]

end Sys2Proof.Machine

namespace Sys2Proof

open Machine

/-- Settles O46: the rounds undo each other one by one, whatever the expanded key holds. -/
theorem aesBlocksInverse : Obligations.AesBlocksInverse := fun _ _ =>
  ⟨aesDecBlock_aesEncBlock _ _, aesEncBlock_aesDecBlock _ _⟩

/-- Settles O47: the tables undo each other byte by byte, the rotations row by row, and the column mixings, which are
additive and treat all rows alike, because they do so on a column with one entry in row 0. -/
theorem roundTransformationsInverse : Obligations.RoundTransformationsInverse := fun _ =>
  ⟨invSubBytes_subBytes _, subBytes_invSubBytes _, invShiftRows_shiftRows _, shiftRows_invShiftRows _,
    invMixColumns_mixColumns _, mixColumns_invMixColumns _⟩

/-- Settles O48: the first eight words are the key's, and each of the 52 words after them extends the words before it. -/
theorem keyScheduleRecurrence : Obligations.KeyScheduleRecurrence := fun _ =>
  ⟨length_keyExp _, fun _ => keyExp_first _, fun _ => keyExp_next _⟩

end Sys2Proof

/-! Proofs: the CBC unit and the padding engine. Decryption in CBC mode undoes encryption (R173), a change of the IV stays in the
first block (R171), and unpadding strips exactly what padding can append (R174 to R177). -/

namespace Sys2Proof.Machine

/-! ### CBC mode (R170, R171) -/

/-- The block operations and the chaining cancel block by block, whatever the expanded key holds (R173). -/
@[simp] theorem cbcDecBlocks_cbcEncBlocks (rk : List Word) (iv : Block) (xs : List Block) :
    cbcDecBlocks rk iv (cbcEncBlocks rk iv xs) = xs := by
  induction xs generalizing iv with
  | nil => rfl
  | cons x xs ih => rw [cbcEncBlocks, cbcDecBlocks, aesDecBlock_aesEncBlock, Block.xor_xor_cancel, ih]

/-- The IV meets the first block only; the block after it is chained to the first block of the ciphertext (R171). -/
theorem cbcDec_block_append (key : List Byte) (iv b : Block) (y : List Byte) :
    cbcDec key iv (b.bytes ++ y) = ((aesDecBlock (keyExp key) b).xor iv).bytes ++ cbcDec key b y := by
  rw [cbcDec, toBlocks_append, cbcDecBlocks, ofBlocks_cons, cbcDec]

theorem Block.xor_assoc (x y z : Block) : (x.xor y).xor z = x.xor (y.xor z) := by
  simp [Block.xor, Column.xor, BitVec.xor_assoc]

/-- A byte string of at least 16 bytes is a block and the bytes after it. -/
theorem exists_block_append {bs : List Byte} (h : 16 ≤ bs.length) : ∃ (b : Block) (t : List Byte), bs = b.bytes ++ t := by
  refine ⟨Block.ofBytes (bs.take 16), bs.drop 16, ?_⟩
  rw [Block.bytes_ofBytes (List.length_take_of_le h), List.take_append_drop]

/-! ### Padding (R174, R176) -/

/-- What `UNPAD` checks and strips, on every buffer: the last `PadLen` bytes, or all there are where they are fewer. -/
theorem unpad_eq_some_iff {x r : List Byte} : unpad x = some r ↔
    (1 ≤ (x.getLastD 0).toNat ∧ (x.getLastD 0).toNat ≤ 16) ∧
    (∀ b ∈ x.drop (x.length - (x.getLastD 0).toNat), b = x.getLastD 0) ∧
    x.take (x.length - (x.getLastD 0).toNat) = r := by
  have hbounds : ((x.getLastD 0).toNat < 1 ∨ 16 < (x.getLastD 0).toNat) ↔
      ¬ (1 ≤ (x.getLastD 0).toNat ∧ (x.getLastD 0).toNat ≤ 16) := by omega
  simp only [unpad, hbounds, Option.ite_none_left_eq_some, Option.ite_none_right_eq_some, not_not, List.all_eq_true,
    decide_eq_true_eq, Option.some.injEq]

/-- Padding of any length from 1 to 16 is stripped. -/
theorem unpad_append_replicate (r : List Byte) {p : Nat} (h1 : 1 ≤ p) (h16 : p ≤ 16) :
    unpad (r ++ List.replicate p (BitVec.ofNat 8 p)) = some r := by
  have hlast : (r ++ List.replicate p (BitVec.ofNat 8 p)).getLastD 0 = BitVec.ofNat 8 p := by
    obtain ⟨n, rfl⟩ := Nat.exists_eq_add_of_le' h1
    rw [List.replicate_succ', ← List.append_assoc, List.getLastD_concat]
  have hp : (BitVec.ofNat 8 p).toNat = p := by simp; omega
  rw [unpad_eq_some_iff, hlast, hp]
  simp [h1, h16]

/-- What `UNPAD` strips from a buffer of at least 16 bytes is padding. -/
theorem exists_padding_of_unpad {x r : List Byte} (hx : 16 ≤ x.length) (h : unpad x = some r) :
    ∃ p, 1 ≤ p ∧ p ≤ 16 ∧ x = r ++ List.replicate p (BitVec.ofNat 8 p) := by
  obtain ⟨⟨h1, h16⟩, hall, rfl⟩ := unpad_eq_some_iff.1 h
  have hdrop : x.drop (x.length - (x.getLastD 0).toNat) = List.replicate (x.getLastD 0).toNat (x.getLastD 0) :=
    List.eq_replicate_iff.2 ⟨by rw [List.length_drop]; omega, hall⟩
  refine ⟨_, h1, h16, ?_⟩
  rw [BitVec.ofNat_toNat, BitVec.setWidth_eq, ← hdrop, List.take_append_drop]

end Sys2Proof.Machine

namespace Sys2Proof

open Machine

/-- Settles O52, block by block. -/
theorem cbcInverse : Obligations.CbcInverse := by
  intro key iv x hx
  rw [cbcDec, cbcEnc, toBlocks_ofBlocks, cbcDecBlocks_cbcEncBlocks, ofBlocks_toBlocks hx]

/-- Settles O53: the IV is added to the first decrypted block and is used nowhere after it. -/
theorem ivChangeStaysInFirstBlock : Obligations.IvChangeStaysInFirstBlock := by
  intro key iv d y _ hy
  obtain ⟨b, t, rfl⟩ := exists_block_append hy
  simp only [cbcDec_block_append, Block.ofBytes_bytes_append, Block.xor_assoc]
  exact ⟨List.take_left' rfl, rfl⟩

/-- Settles O54, with `PadLen` as the number of bytes appended. -/
theorem paddingUndone : Obligations.PaddingUndone := by
  intro r
  obtain ⟨h1, h16⟩ := padLen_bounds r.length
  have hmod : (r.length + padLen r.length) % 16 = 0 := by unfold padLen; omega
  exact ⟨length_pad r, ⟨padLen r.length, h1, h16, hmod, rfl⟩, unpad_append_replicate r h1 h16⟩

/-- Settles O55: a nonempty buffer of whole blocks has the 16 bytes that the padding can reach. -/
theorem unpaddingAccepts : Obligations.UnpaddingAccepts := by
  intro x r hpos hmod
  constructor
  · exact exists_padding_of_unpad (by omega)
  · rintro ⟨p, h1, h16, rfl⟩
    exact unpad_append_replicate r h1 h16

end Sys2Proof

/-! Proofs: the envelope framer. `ENCRYPT` on legal operands puts out one envelope (R190 to R197); what its bytes are (R198, R199),
and that `DECRYPT` of it returns the plaintext (R200). -/

namespace Sys2Proof.Machine

/-! ### The envelope of a plaintext -/

/-- The envelope that `encrypt(P, T)` makes with the draw `iv` once `T` has passed the size check (R192 to R197). -/
def sourceEnvelope (p : List CodePoint) (t : List Byte) (iv : Block) : List Byte :=
  envelope iv (cbcEnc (deriveKey p) iv (pad (plainRecord t)))

theorem sourceEncrypt_eq (p : List CodePoint) (t : List Byte) (iv : Block) : sourceEncrypt p t iv =
    if t.length > 65535 then .error .inputTooLarge else .bytes (sourceEnvelope p t iv) := rfl

/-- The record as bytes (R192). -/
theorem plainRecord_eq (t : List Byte) :
    plainRecord t = [0x0D, 0xF0, 0xAD, 0xBA] ++ [0x00, 0x00] ++ le16 t.length ++ t := rfl

/-- The body follows the twenty bytes of the header and the IV (R197). -/
theorem drop_envelope (iv : Block) (body : List Byte) : (envelope iv body).drop 20 = body := rfl

section Envelope

variable (p : List CodePoint) (t : List Byte) (iv : Block)

theorem length_sourceEnvelope : (sourceEnvelope p t iv).length = 20 + 16 * ((8 + t.length) / 16 + 1) := by
  rw [sourceEnvelope, length_envelope, length_cbcEnc, length_pad, length_plainRecord, Nat.mul_div_cancel_left _ (by decide)]

/-- The header of every envelope (R198). -/
theorem sourceEnvelope_header : (sourceEnvelope p t iv).take 4 = [0x02, 0x00, 0x00, 0x00] := rfl

/-- The draw stands in bytes 4 to 19 (R198). -/
theorem sourceEnvelope_iv : ((sourceEnvelope p t iv).drop 4).take 16 = iv.bytes := rfl

/-- The body decrypts to the padded record (R198, R173). -/
theorem cbcDec_sourceEnvelope_body :
    cbcDec (deriveKey p) iv ((sourceEnvelope p t iv).drop 20) = pad (plainRecord t) := by
  have hinv := cbcInverse (toVector 32 0 (deriveKey p)) iv (pad (plainRecord t)) (by rw [length_pad, Nat.mul_mod_right])
  rw [toList_toVector (length_deriveKey p)] at hinv
  rw [sourceEnvelope, drop_envelope, hinv]

/-- What `DECRYPT` recovers of the envelope before it checks the padding (R213 to R215). -/
theorem sourceBuffer_sourceEnvelope : sourceBuffer p (sourceEnvelope p t iv) = pad (plainRecord t) :=
  cbcDec_sourceEnvelope_body p t iv

variable {p t iv}

/-- Under one passphrase, envelopes of one plaintext differ exactly as their draws do (R199 (f)). -/
theorem sourceEnvelope_inj {iv' : Block} : sourceEnvelope p t iv = sourceEnvelope p t iv' ↔ iv = iv' := by
  refine ⟨fun h => ?_, congrArg _⟩
  have hbytes : iv.bytes = iv'.bytes := congrArg (fun e => (e.drop 4).take 16) h
  rw [← Block.ofBytes_bytes iv, hbytes, Block.ofBytes_bytes]

/-- The record of a plaintext passes every check on it (R217 to R221). -/
theorem sourceUnwrap_plainRecord (ht : t.length ≤ 65535) : sourceUnwrap (plainRecord t) = .bytes t := by
  have hn : leNum (((plainRecord t).drop 6).take 2) = t.length :=
    (leNum_leBytes 2 t.length).trans (Nat.mod_eq_of_lt (by omega))
  have hmagic : (plainRecord t).take 4 = [0x0D, 0xF0, 0xAD, 0xBA] := rfl
  have hauth : ((plainRecord t).drop 4).take 2 = [0x00, 0x00] := rfl
  have hplain : (plainRecord t).drop 8 = t := rfl
  rw [sourceUnwrap, hn, length_plainRecord, if_neg (by omega), if_neg (not_not.2 hmagic), if_neg (not_not.2 hauth),
    if_neg (lt_irrefl _), hplain, List.take_length]

/-- `decrypt(P, encrypt(P, T)) = T` over byte lists (R200). -/
theorem sourceDecrypt_sourceEnvelope (ht : t.length ≤ 65535) :
    sourceDecrypt p (sourceEnvelope p t iv) = .bytes t := by
  have hversion : (sourceEnvelope p t iv).head? = some 0x02 := rfl
  obtain ⟨-, -, hunpad⟩ := paddingUndone (plainRecord t)
  rw [sourceDecrypt, length_sourceEnvelope, if_neg (by omega), if_neg (not_not.2 hversion), sourceBuffer_sourceEnvelope,
    hunpad]
  exact sourceUnwrap_plainRecord ht

end Envelope

/-! ### `ENCRYPT` on legal operands -/

/-- The envelope that `ENCRYPT` makes of the operands and the next draw. -/
def State.envelope (s : State) : List Byte := sourceEnvelope s.passphrase s.input s.nextDraw

theorem State.length_envelope (s : State) : s.envelope.length = 20 + 16 * ((8 + s.inLen.toNat) / 16 + 1) := by
  rw [State.envelope, length_sourceEnvelope, State.length_input]

/-- What a success completion publishes is read back (R247). -/
theorem State.output_complete (s : State) {o : List Byte} (ho : o.length < 2 ^ 32) : (s.complete o).output = o := by
  rw [State.output, State.complete_outLen, BitVec.toNat_ofNat, Nat.mod_eq_of_lt ho, State.complete_out,
    Memory.readRange_ofList]

section Encrypt

variable {s : State} (hp : s.passOperandOk = true)
include hp

theorem exec_encrypt_of_gt (hl : 65535 < s.inLen.toNat) : exec .encrypt s = .next (s.raise .inputTooLarge) := by
  rw [exec_encrypt, if_neg (ne_false_of_eq_true hp), if_pos hl]

theorem exec_encrypt_of_le (hl : s.inLen.toNat ≤ 65535) :
    exec .encrypt s = .next (s.afterDraw.complete s.envelope) := by
  rw [exec_encrypt, if_neg (ne_false_of_eq_true hp), if_neg (not_lt.2 hl)]
  rfl

/-- The command as the host sees it: the envelope is in `OUT`. -/
theorem exec_encrypt_output (hl : s.inLen.toNat ≤ 65535) :
    ∃ t, exec .encrypt s = .next t ∧ t.output = s.envelope :=
  ⟨_, exec_encrypt_of_le hp hl, State.output_complete _ (by rw [State.length_envelope]; omega)⟩

end Encrypt

/-- An input of at most 65572 bytes is within every build's `IN_CAP` (R5, R243). -/
theorem State.inOperandOk_of_le {s : State} (h : s.inLen.toNat ≤ 65572) : s.inOperandOk = true := by
  rw [State.inOperandOk, State.inPresentable, State.inLen_operands, State.inCap]
  cases s.build.inCap with
  | none => rfl
  | some cap => exact decide_eq_true (h.trans cap.2)

end Sys2Proof.Machine

namespace Sys2Proof

open Machine

/-- Settles O43: after step 0 each command is the source's function. -/
theorem commandsRefineSourceFunctions : Obligations.CommandsRefineSourceFunctions := by
  refine fun s => ⟨?_, exec_decrypt s⟩
  rw [exec_encrypt, sourceEncrypt_eq, State.length_input]
  by_cases hl : s.inLen.toNat > 65535
  · rw [if_pos hl, if_pos hl]
  · rw [if_neg hl, if_neg hl]
    rfl

/-- Settles O22: the envelope of the record, written out as bytes. -/
theorem encryptCompletes : Obligations.EncryptCompletes := by
  intro s hp hl
  rw [← State.length_input, ← plainRecord_eq]
  exact exec_encrypt_of_le hp hl

/-- Settles O23. -/
theorem encryptChecksSize : Obligations.EncryptChecksSize := fun _ hp =>
  ⟨exec_encrypt_of_gt hp, fun hl => ⟨_, exec_encrypt_of_le hp hl, rfl⟩⟩

/-- Settles O24: the header and the draw stand in the envelope, and CBC decryption of the body gives the padded record. -/
theorem encryptEnvelopeShape : Obligations.EncryptEnvelopeShape := by
  intro s hp hl
  obtain ⟨t, ht, hout⟩ := exec_encrypt_output hp hl
  refine ⟨t, ht, ?_, ?_, ?_, ?_⟩
  · rw [← State.length_output, hout, State.length_envelope]
  · rw [hout]
    exact sourceEnvelope_header ..
  · rw [hout]
    exact sourceEnvelope_iv ..
  · rw [hout, State.envelope, cbcDec_sourceEnvelope_body, pad, padLen, length_plainRecord, plainRecord_eq,
      State.length_input]
    rfl

/-- Settles O25: the draw is a part of the envelope, and the rest is a function of it and the operands. -/
theorem envelopesEqualIffDrawsEqual : Obligations.EnvelopesEqualIffDrawsEqual := by
  intro s u hs hu hl hpass hlen hin
  obtain ⟨t, ht, hout⟩ := exec_encrypt_output hs hl
  obtain ⟨v, hv, hout'⟩ := exec_encrypt_output hu (hlen ▸ hl)
  refine ⟨t, v, ht, hv, ?_⟩
  rw [hout, hout', State.envelope, State.envelope, ← hpass, ← hin, sourceEnvelope_inj]

/-- Settles O42: the envelope is short enough for every build, and the source's functions undo each other. -/
theorem roundTrip : Obligations.RoundTrip := by
  intro s hp hl
  obtain ⟨t, ht, hout⟩ := exec_encrypt_output hp hl
  refine ⟨t, ht, fun u hu hpass hin => ?_⟩
  rw [hout] at hin
  have hlen : u.inLen.toNat ≤ 65572 := by
    rw [← State.length_input, hin, State.length_envelope]
    omega
  have hok : ¬ (u.passOperandOk = false ∨ u.inOperandOk = false) := by
    rw [hu, State.inOperandOk_of_le hlen]
    decide
  rw [exec_decrypt, if_neg hok, hpass, hin, State.envelope,
    sourceDecrypt_sourceEnvelope (by rw [State.length_input]; exact hl)]
  rfl

end Sys2Proof

/-! Proofs: the envelope validator. What each check of `DECRYPT` answers (R211 to R221), the three discriminators (R97), and that
the Reserved bytes have no effect (R222). -/

namespace Sys2Proof.Machine

/-! ### Ranges of a buffer -/

theorem Memory.head?_readRange {w : Nat} (m : Memory w) (a n : Nat) :
    (m.readRange a n).head? = if n = 0 then none else some (m.read a) := by cases n <;> rfl

theorem Memory.drop_readRange {w : Nat} (m : Memory w) (a n k : Nat) :
    (m.readRange a n).drop k = m.readRange (a + k) (n - k) := by
  apply List.ext_getElem (by simp)
  intro i h1 h2
  rw [List.getElem_drop, Memory.getElem_readRange, Memory.getElem_readRange, Nat.add_assoc]

/-- The first byte of the input is the Version byte (R83). -/
theorem State.head?_input {s : State} (h : 36 ≤ s.inLen.toNat) : s.input.head? = some (s.inBuf.read 0) := by
  rw [State.input, Sampled.input, Memory.head?_readRange, State.inLen_operands, if_neg (by omega), State.inBuf_operands]

/-! ### The source's `decrypt`, check by check -/

section Source

variable {p : List CodePoint} {e : List Byte}

/-- The length is checked first (R211). -/
theorem sourceDecrypt_of_length (h : e.length < 36 ∨ (e.length - 20) % 16 ≠ 0) :
    sourceDecrypt p e = .error .malformedEnvelope := if_pos h

/-- The Version byte is checked next (R212). -/
theorem sourceDecrypt_of_version (h36 : 36 ≤ e.length) (hb : (e.length - 20) % 16 = 0) (hv : e.head? ≠ some 0x02) :
    sourceDecrypt p e = .error .unsupportedVersion := by
  rw [sourceDecrypt, if_neg (by omega), if_pos hv]

/-- An envelope that passes both checks is decrypted, and its record unpadded and unwrapped (R213 to R221). -/
theorem sourceDecrypt_of_header (h36 : 36 ≤ e.length) (hb : (e.length - 20) % 16 = 0) (hv : e.head? = some 0x02) :
    sourceDecrypt p e = (unpad (sourceBuffer p e)).elim (.error .paddingInvalid) sourceUnwrap := by
  rw [sourceDecrypt, if_neg (by omega), if_neg (not_not.2 hv)]
  cases unpad (sourceBuffer p e) <;> rfl

/-- The header of the record is looked for first (R217). -/
theorem sourceUnwrap_of_short {r : List Byte} (h : r.length < 8) : sourceUnwrap r = .error .malformedEnvelope := if_pos h

/-- The checks on a record that has its header, each field as the number it holds (R218 to R221). -/
theorem sourceUnwrap_of_header {r : List Byte} (h : 8 ≤ r.length) : sourceUnwrap r =
    if leNum (r.take 4) ≠ 0xBAADF00D then .error .magicMismatch
    else if leNum ((r.drop 4).take 2) ≠ 0 then .error .authenticatorUnsupported
    else if r.length < 8 + leNum ((r.drop 6).take 2) then .error .malformedEnvelope
    else .bytes ((r.drop 8).take (leNum ((r.drop 6).take 2))) := by
  have hmagic : (r.take 4).length = 4 := by rw [List.length_take]; omega
  have hauth : ((r.drop 4).take 2).length = 2 := by rw [List.length_take, List.length_drop]; omega
  have hzero : (r.drop 4).take 2 = [0x00, 0x00] ↔ leNum ((r.drop 4).take 2) = 0 :=
    ⟨fun he => by rw [he]; rfl, eq_of_leNum_eq (cs := [0x00, 0x00]) hauth⟩
  rw [sourceUnwrap, if_neg (not_lt.2 h)]
  simp only [ne_eq, magic_iff hmagic, hzero, gt_iff_lt]

/-- Of an envelope the source reads the length, the Version byte and what follows the header (R222). -/
theorem sourceDecrypt_congr {e' : List Byte} (hlen : e.length = e'.length) (hversion : e.head? = e'.head?)
    (hrest : e.drop 4 = e'.drop 4) : sourceDecrypt p e = sourceDecrypt p e' := by
  have hbody : e.drop 20 = e'.drop 20 := by
    simpa only [List.drop_drop] using congrArg (List.drop 16) hrest
  simp only [sourceDecrypt, sourceBuffer, hlen, hversion, hrest, hbody]

end Source

/-! ### `DECRYPT`, check by check -/

/-- Once step 0 has accepted the operands, `DECRYPT` settles the source's result (R210). -/
theorem exec_decrypt_of_accepted {s : State} (hp : s.passOperandOk = true) (hi : s.inOperandOk = true) :
    exec .decrypt s = .next (s.settle (sourceDecrypt s.passphrase s.input)) := by
  rw [exec_decrypt, hp, hi, if_neg (by decide)]

/-- After steps 0 to 2, `DECRYPT` settles what the unpadded record gives (R216). -/
theorem State.DecryptReady.exec_decrypt {s : State} (h : s.DecryptReady) :
    exec .decrypt s = .next (s.settle (s.unpadded.elim (.error .paddingInvalid) sourceUnwrap)) := by
  have hversion : s.input.head? = some 0x02 := by rw [State.head?_input h.longEnough, h.version]
  have hlen := s.length_input
  rw [exec_decrypt_of_accepted h.passOk h.inOk,
    sourceDecrypt_of_header (hlen ▸ h.longEnough) (hlen ▸ h.wholeBlocks) hversion, State.unpadded]

/-- After step 6, `DECRYPT` settles what the checks on the record give (R217 to R221). -/
theorem State.DecryptReady.exec_decrypt_of_unpadded {s : State} {r : List Byte} (h : s.DecryptReady)
    (hr : s.unpadded = some r) : exec .decrypt s = .next (s.settle (sourceUnwrap r)) := by
  rw [h.exec_decrypt, hr, Option.elim_some]

/-- Inputs that differ in the Reserved bytes only give the same result (R222). -/
theorem State.commandResult_decrypt_of_reserved {s : State} {m : Memory 8}
    (h : ∀ a, a ≠ 1 → a ≠ 2 → a ≠ 3 → m.read a = s.inBuf.read a) :
    { s with inBuf := m : State }.commandResult .decrypt = s.commandResult .decrypt := by
  set u : State := { s with inBuf := m }
  have hlen : u.input.length = s.input.length := by rw [State.length_input, State.length_input]
  have hversion : u.input.head? = s.input.head? := by
    simp only [State.input, Sampled.input, Memory.head?_readRange, State.inBuf_operands, State.inLen_operands]
    rw [show u.inBuf.read 0 = s.inBuf.read 0 from h 0 (by decide) (by decide) (by decide)]
  have hrest : u.input.drop 4 = s.input.drop 4 := by
    simp only [State.input, Sampled.input, Memory.drop_readRange]
    exact Memory.readRange_congr fun i _ => h _ (by omega) (by omega) (by omega)
  have hsource := sourceDecrypt_congr (p := s.passphrase) hlen hversion hrest
  rw [State.commandResult, State.commandResult, ← hsource]
  rfl

/-! ### The discriminators -/

/-- A read of `IN` past the valid length is `MalformedEnvelope` (R57). -/
theorem Ctl.readIn_of_lt {s : State} {a n : Nat} (h : s.work.ops.inLen.toNat < a + n) (k : List Byte → Ctl) :
    Ctl.readIn s a n k = .raise s .malformedEnvelope := if_neg (not_le.2 h)

/-- A read of `REC` past the valid length is `MalformedEnvelope` (R57). -/
theorem Ctl.readRec_of_lt {s : State} {a n : Nat} (h : s.work.recLen.toNat < a + n) (k : List Byte → Ctl) :
    Ctl.readRec s a n k = .raise s .malformedEnvelope := if_neg (not_le.2 h)

/-- `ENV.VERSION_V2` reads the sampled `IN[0]` (R212). -/
theorem exec_envVersionV2 (s : State) : exec .envVersionV2 s = .next
    (if s.work.ops.inLen.toNat < 1 then s.raise .malformedEnvelope
     else if s.work.ops.inBuf.read 0 = 0x02 then s.goTo .s3 else s.raise .unsupportedVersion) := by
  change Host.Outcome.next (decStep2 s).state = _
  rw [decStep2]
  by_cases hl : s.work.ops.inLen.toNat < 1
  · rw [Ctl.readIn_of_lt hl, if_pos hl, Ctl.state_raise]
  rw [Ctl.readIn_of_le (not_lt.1 hl), if_neg hl, Memory.readRange, Memory.readRange, decode_version]
  split_ifs <;> rfl

/-- `REC.MAGIC` reads `REC[0,4)` (R218). -/
theorem exec_recMagic (s : State) : exec .recMagic s = .next
    (if s.work.recLen.toNat < 4 then s.raise .malformedEnvelope
     else if s.work.recBuf.readRange 0 4 = [0x0D, 0xF0, 0xAD, 0xBA] then s.goTo .s8 else s.raise .magicMismatch) := by
  change Host.Outcome.next (decStep7 s).state = _
  rw [decStep7]
  by_cases hl : s.work.recLen.toNat < 4
  · rw [Ctl.readRec_of_lt hl, if_pos hl, Ctl.state_raise]
  rw [Ctl.readRec_of_le (not_lt.1 hl), if_neg hl, decode_magic (Memory.length_readRange ..)]
  split_ifs <;> rfl

/-- `REC.AUTHLEN_NONE` reads `REC[4,6)` (R219). -/
theorem exec_recAuthLenNone (s : State) : exec .recAuthLenNone s = .next
    (if s.work.recLen.toNat < 6 then s.raise .malformedEnvelope
     else if s.work.recBuf.readRange 4 2 = [0x00, 0x00] then s.goTo .s9 else s.raise .authenticatorUnsupported) := by
  change Host.Outcome.next (decStep8 s).state = _
  rw [decStep8]
  by_cases hl : s.work.recLen.toNat < 6
  · rw [Ctl.readRec_of_lt hl, if_pos hl, Ctl.state_raise]
  rw [Ctl.readRec_of_le (not_lt.1 hl), if_neg hl, decode_authLen (Memory.length_readRange ..)]
  split_ifs <;> rfl

/-- Where a discriminator can end: at another step of the command, or at an error (R212, R218, R219). -/
def DiscriminatorEnd (s t : State) : Prop := (∃ n, t = s.goTo n) ∨ ∃ e, e ≠ .ok ∧ t = s.raise e

/-- A bounded read and a comparison, each with its error, are such an end. -/
theorem DiscriminatorEnd.checks {s : State} {c d : Prop} [Decidable c] [Decidable d] {n : StepNo} {e e' : ErrCode}
    (he : e ≠ .ok) (he' : e' ≠ .ok) :
    DiscriminatorEnd s (if c then s.raise e else if d then s.goTo n else s.raise e') := by
  split
  · exact .inr ⟨e, he, rfl⟩
  split
  · exact .inl ⟨n, rfl⟩
  · exact .inr ⟨e', he', rfl⟩

theorem exec_discriminator_end {i : Instr} (hi : i.isCommand = false) (s : State) :
    ∃ t, exec i s = .next t ∧ DiscriminatorEnd s t := by
  cases i with
  | envVersionV2 => exact ⟨_, exec_envVersionV2 s, .checks (by decide) (by decide)⟩
  | recMagic => exact ⟨_, exec_recMagic s, .checks (by decide) (by decide)⟩
  | recAuthLenNone => exact ⟨_, exec_recAuthLenNone s, .checks (by decide) (by decide)⟩
  | deriveKey | encrypt | decrypt => cases hi

end Sys2Proof.Machine

namespace Sys2Proof

open Machine

/-- Settles O26: the length is the source's first check, and it looks at no byte. -/
theorem decryptChecksLength : Obligations.DecryptChecksLength := by
  intro s hp hi hl
  rw [exec_decrypt_of_accepted hp hi, sourceDecrypt_of_length (by rwa [State.length_input])]
  rfl

/-- Settles O27: the Version byte is the head of the input. -/
theorem decryptChecksVersion : Obligations.DecryptChecksVersion := by
  intro s hp hi h36 hb hv
  have hhead : s.input.head? ≠ some 0x02 := by
    rw [State.head?_input h36]
    exact mt Option.some.inj hv
  have hlen := s.length_input
  rw [exec_decrypt_of_accepted hp hi, sourceDecrypt_of_version (hlen ▸ h36) (hlen ▸ hb) hhead]
  rfl

/-- Settles O28: no check on the record comes before the padding. -/
theorem decryptChecksPadding : Obligations.DecryptChecksPadding := by
  intro s h hr
  rw [h.exec_decrypt, hr]
  rfl

/-- Settles O29: no field of the record is read before its header is known to be there. -/
theorem decryptChecksRecordHeader : Obligations.DecryptChecksRecordHeader := by
  intro s r h hr h8
  rw [h.exec_decrypt_of_unpadded hr, sourceUnwrap_of_short h8]
  rfl

/-- Settles O30: the Magic is the first field compared, as a number. -/
theorem decryptChecksMagic : Obligations.DecryptChecksMagic := by
  intro s r h hr h8 hmagic
  rw [h.exec_decrypt_of_unpadded hr, sourceUnwrap_of_header h8, if_pos hmagic]
  rfl

/-- Settles O31: AuthLen comes after Magic and before PlaintextLength. -/
theorem decryptChecksAuthLen : Obligations.DecryptChecksAuthLen := by
  intro s r h hr h8 hmagic hauth
  rw [h.exec_decrypt_of_unpadded hr, sourceUnwrap_of_header h8, if_neg (not_not.2 hmagic), if_pos hauth]
  rfl

/-- Settles O32: the last check of the source is the bound on `8 + n`. -/
theorem decryptChecksPlaintextLength : Obligations.DecryptChecksPlaintextLength := by
  intro s r h hr h8 hmagic hauth n
  rw [h.exec_decrypt_of_unpadded hr, sourceUnwrap_of_header h8, if_neg (not_not.2 hmagic), if_neg (not_not.2 hauth)]
  refine ⟨fun hlt => ?_, fun hle => ?_⟩
  · rw [if_pos hlt]
    rfl
  · rw [if_neg (not_lt.2 hle)]
    rfl

/-- Settles O33: one valid byte leaves the comparison alone to decide. -/
theorem versionDiscriminator : Obligations.VersionDiscriminator := by
  intro s hl
  rw [exec_envVersionV2, if_neg (not_lt.2 hl)]
  exact ⟨fun hv => by rw [if_pos hv]; rfl, fun hv => by rw [if_neg hv]⟩

/-- Settles O34: four valid bytes leave the comparison alone to decide. -/
theorem magicDiscriminator : Obligations.MagicDiscriminator := by
  intro s hl
  rw [exec_recMagic, if_neg (not_lt.2 hl)]
  exact ⟨fun hm => by rw [if_pos hm]; rfl, fun hm => by rw [if_neg hm]⟩

/-- Settles O35: the field is the two bytes `REC[4]` and `REC[5]`. -/
theorem authLenDiscriminator : Obligations.AuthLenDiscriminator := by
  intro s hl
  have hfield : s.work.recBuf.readRange 4 2 = [0x00, 0x00] ↔ s.work.recBuf.read 4 = 0 ∧ s.work.recBuf.read 5 = 0 := by
    simp [Memory.readRange]
  rw [exec_recAuthLenNone, if_neg (not_lt.2 hl)]
  refine ⟨fun h4 h5 => ?_, fun hne => ?_⟩
  · rw [if_pos (hfield.2 ⟨h4, h5⟩)]
    rfl
  · rw [if_neg (mt hfield.1 (not_and_or.2 hne))]

/-- Settles O38: the two ends of a discriminator are the two sides of the statement. -/
theorem discriminatorFrame : Obligations.DiscriminatorFrame := by
  intro s t i hi ht
  obtain ⟨u, hu, hend⟩ := exec_discriminator_end hi s
  cases ht.symm.trans hu
  obtain ⟨n, rfl⟩ | ⟨e, he, rfl⟩ := hend
  · exact .inl rfl
  · exact .inr ⟨rfl, he, rfl⟩

/-- Settles O41: both runs settle the same result, and a completion shows its result alone. -/
theorem reservedBytesIgnored : Obligations.ReservedBytesIgnored := by
  intro s m h
  obtain ⟨s', -, hs⟩ := exec_command_settle (i := .decrypt) rfl s
  obtain ⟨u', -, hu⟩ := exec_command_settle (i := .decrypt) rfl { s with inBuf := m }
  rw [State.commandResult_decrypt_of_reserved h] at hu
  exact ⟨_, _, hs, hu, State.settle_visible s' u' _⟩

end Sys2Proof

/-! Proofs: the exceptions and safety. What the two completions write (R247, R248), what a command leaves (R251), the operands
that are rejected (R243), the result that stays in `DONE` (R249), and where a step can stop (R251). -/

namespace Sys2Proof.Machine

/-! ### The completions -/

/-- `OUT_LEN` after a success completion (R247). -/
theorem State.complete_outLen_toNat (s : State) {o : List Byte} (ho : o.length < 2 ^ 32) :
    (s.complete o).outLen.toNat = o.length := by
  rw [State.complete_outLen, BitVec.toNat_ofNat, Nat.mod_eq_of_lt ho]

/-- `OUT` past the output of a success completion (R247). -/
theorem State.complete_out_read_of_le (s : State) {o : List Byte} {i : Nat} (hi : o.length ≤ i) :
    (s.complete o).out.read i = 0 := by
  rw [State.complete_out, Memory.read_ofList, List.getD_eq_default _ _ hi]

/-- What the end of a command reports (R29, R154, R248). -/
theorem CommandEnd.reports {s t : State} (h : CommandEnd s t) : t.work = Work.zero ∧ t.err ≠ .cipherInitError ∧
    (t.err ≠ .ok → t.outLen = 0 ∧ ∀ a, t.out.read a = 0) := by
  obtain ⟨e, -, hcipher, rfl⟩ | ⟨o, rfl | rfl⟩ := h
  · exact ⟨rfl, hcipher, fun _ => ⟨rfl, fun _ => rfl⟩⟩
  · exact ⟨rfl, nofun, fun hok => absurd rfl hok⟩
  · exact ⟨rfl, nofun, fun hok => absurd rfl hok⟩

theorem CommandEnd.answer {s t : State} (h : CommandEnd s t) : t.answer = s.answer := by
  obtain ⟨e, -, -, rfl⟩ | ⟨o, rfl | rfl⟩ := h <;> rfl

theorem CommandEnd.freeReads {s t : State} (h : CommandEnd s t) : t.freeReads = s.freeReads := by
  obtain ⟨e, -, -, rfl⟩ | ⟨o, rfl | rfl⟩ := h <;> rfl

/-- A command makes one draw at most (R22). -/
theorem CommandEnd.entropy {s t : State} (h : CommandEnd s t) :
    t.entropy = s.entropy ∨ t.entropy = ⟨s.entropy.fixed.tail, s.entropy.drawn + 1⟩ := by
  obtain ⟨e, -, -, rfl⟩ | ⟨o, rfl | rfl⟩ := h
  · exact .inl rfl
  · exact .inl rfl
  · exact .inr rfl

/-- Only `ENCRYPT` draws (R22). -/
theorem exec_entropy_of_ne_encrypt {s t : State} {i : Instr} (hi : i.isCommand = true) (hne : i ≠ .encrypt)
    (ht : exec i s = .next t) : t.entropy = s.entropy := by
  obtain ⟨-, ⟨d, hd, hdec⟩, ⟨k, hk, hkdf⟩⟩ := drawCount s
  cases i with
  | deriveKey => cases ht.symm.trans hk; exact hkdf
  | encrypt => exact absurd rfl hne
  | decrypt => cases ht.symm.trans hd; exact hdec
  | envVersionV2 | recMagic | recAuthLenNone => cases hi

/-! ### Operands the ports cannot carry (R243) -/

theorem withinCap_eq_false_iff {cap : Option Nat} {n : Nat} :
    withinCap cap n = false ↔ ∃ c, cap = some c ∧ c < n := by
  cases cap with
  | none => simp [withinCap]
  | some c => simp [withinCap]

theorem isScalar_eq_false_iff (c : CodePoint) :
    isScalar c = false ↔ (0xD800 ≤ c.toNat ∧ c.toNat ≤ 0xDFFF) ∨ 0x10FFFF < c.toNat := by
  rw [← Bool.not_eq_true, isScalar_iff]
  omega

/-- An entry below `PASS_LEN` is one of the passphrase's (R25). -/
theorem State.read_mem_passphrase {s : State} {i : Nat} (hi : i < s.passLen.toNat) : s.pass.read i ∈ s.passphrase := by
  have hlen : i < (s.pass.readRange 0 s.passLen.toNat).length := by rwa [Memory.length_readRange]
  have hget := Memory.getElem_readRange s.pass 0 _ i hlen
  rw [Nat.zero_add] at hget
  exact hget ▸ List.getElem_mem hlen

theorem State.passOperandOk_of_long {s : State} (h : ∃ c, s.passCap = some c ∧ c < s.passLen.toNat) :
    s.passOperandOk = false := by
  rw [State.passOperandOk, State.passPresentable, State.passLen_operands, withinCap_eq_false_iff.2 h, Bool.false_and]

theorem State.passOperandOk_of_entry {s : State} {i : Nat} (hi : i < s.passLen.toNat)
    (h : isScalar (s.pass.read i) = false) : s.passOperandOk = false := by
  have hall : s.passphrase.all isScalar = false := List.all_eq_false.2 ⟨_, s.read_mem_passphrase hi, Bool.eq_false_iff.1 h⟩
  rw [State.passOperandOk, State.passPresentable, State.passphrase_operands, hall, Bool.and_false]

/-! ### The result in `DONE` (R249) -/

/-- `t` reports what `s` reports: `ST`, `ERR`, `OUT_LEN` and `OUT`. -/
structure State.SameResult (s t : State) : Prop where
  st : t.st = s.st
  err : t.err = s.err
  outLen : t.outLen = s.outLen
  out : t.out = s.out

/-- A move that starts no instruction and, where it settles, leaves the result of `s`. -/
def Fetched.KeepsResult (s : State) : Fetched → Prop
  | .run _ _ => False
  | .settle t => s.SameResult t
  | .fault _ => True

/-- An access that settles where its entry exists and is a fault elsewhere. -/
theorem Fetched.KeepsResult.guarded {b : Bool} {s t : State} {f : Fault} (h : s.SameResult t) :
    (if b then Fetched.settle t else .fault f).KeepsResult s := by
  cases b
  · trivial
  · exact h

/-- Between two commands only a write of `CMD` and a reset touch the result. -/
theorem hostAccess_keepsResult {a : HostAccess} (s : State) (hcmd : ∀ w, a ≠ .writeReg .cmd w) (hreset : a ≠ .reset) :
    (hostAccess a s).KeepsResult s := by
  cases a with
  | writeReg r v =>
    cases r with
    | cmd => exact absurd rfl (hcmd v)
    | status | passLen | inLen | outLen => exact ⟨rfl, rfl, rfl, rfl⟩
  | readReg r => exact ⟨rfl, rfl, rfl, rfl⟩
  | writePass i v => exact .guarded ⟨rfl, rfl, rfl, rfl⟩
  | writeIn i v => exact .guarded ⟨rfl, rfl, rfl, rfl⟩
  | writeOut i v => exact .guarded ⟨rfl, rfl, rfl, rfl⟩
  | readBuf b i => exact .guarded ⟨rfl, rfl, rfl, rfl⟩
  | reset => exact absurd rfl hreset

theorem fetch_keepsResult {s : State} (hs : s.st ≠ .busy) (hcmd : ∀ w, s.hostQueue.head? ≠ some (.writeReg .cmd w))
    (hreset : s.hostQueue.head? ≠ some .reset) : (fetch s).KeepsResult s := by
  cases hq : s.hostQueue with
  | nil => rw [fetch_idle hs hq]; exact ⟨rfl, rfl, rfl, rfl⟩
  | cons a q =>
    rw [hq] at hcmd hreset
    rw [fetch_host hs hq]
    have h := hostAccess_keepsResult (s.hostTook q) (fun w => mt (congrArg some) (hcmd w)) (mt (congrArg some) hreset)
    cases hf : hostAccess a (s.hostTook q) with
    | run i t => rw [hf] at h; exact h
    | settle t => rw [hf] at h; exact ⟨h.st, h.err, h.outLen, h.out⟩
    | fault f => trivial

/-! ### Where a step can stop (R251) -/

/-- Every instruction answers a next state. -/
theorem exec_next (i : Instr) (s : State) : ∃ t, exec i s = .next t := by
  cases hi : i.isCommand with
  | true => exact (exec_command_end hi s).imp fun _ => And.left
  | false => exact (exec_discriminator_end hi s).imp fun _ => And.left

/-- A step can stop only at a move that is a fault. -/
theorem step_next_or_fault (s : State) : (∃ t, step s = .next t) ∨ ∃ f, fetch s = .fault f := by
  cases hf : fetch s with
  | run i u => exact .inl (step_of_run hf ▸ exec_next i u)
  | settle t => exact .inl ⟨t, step_of_settle hf⟩
  | fault f => exact .inr ⟨f, rfl⟩

/-- A move on the access `a` that, where it is a fault, names an entry that `a` names and that does not exist (R50). -/
def Fetched.FaultsAt (a : HostAccess) (s : State) : Fetched → Prop
  | .run _ _ => True
  | .settle _ => True
  | .fault f => ∃ b i, f = .noSuchEntry b i ∧ s.hasEntry b i = false ∧ a.entryExists s = false

/-- An access that settles where the entry it names exists. -/
theorem Fetched.FaultsAt.guarded {a : HostAccess} {s t : State} {b : HostBuf} {i : Nat}
    (ha : a.entryExists s = s.hasEntry b i) :
    (if s.hasEntry b i then Fetched.settle t else .fault (.noSuchEntry b i)).FaultsAt a s := by
  cases hi : s.hasEntry b i with
  | true => trivial
  | false => exact ⟨b, i, rfl, hi, ha.trans hi⟩

theorem startCommand_faultsAt (a : HostAccess) (s : State) (w : Word) : (startCommand s w).FaultsAt a s := by
  cases hd : decodeCommand w with
  | ok i => rw [startCommand_of_ok hd]; trivial
  | rejected r => rw [startCommand_of_rejected hd]; trivial

theorem hostAccess_faultsAt (a : HostAccess) (s : State) : (hostAccess a s).FaultsAt a s := by
  cases a with
  | writeReg r v =>
    cases r with
    | cmd => exact startCommand_faultsAt _ s v
    | status | passLen | inLen | outLen => trivial
  | readReg r => trivial
  | writePass i v => exact .guarded rfl
  | writeIn i v => exact .guarded rfl
  | writeOut i v => exact .guarded rfl
  | readBuf b i => exact .guarded rfl
  | reset => trivial

theorem busyAccess_faultsAt (a : HostAccess) (s : State) : (busyAccess a s).FaultsAt a s := by
  cases a with
  | writeReg r v => cases r <;> trivial
  | readReg r => cases r <;> trivial
  | writePass i v => exact .guarded rfl
  | writeIn i v => exact .guarded rfl
  | writeOut i v => exact .guarded rfl
  | readBuf b i => cases b <;> exact .guarded rfl
  | reset => trivial

/-- Which entries exist is fixed by the build (R50). -/
theorem State.hasEntry_hostTook (s : State) (q : List HostAccess) (b : HostBuf) (i : Nat) :
    (s.hostTook q).hasEntry b i = s.hasEntry b i := rfl

theorem HostAccess.entryExists_hostTook (a : HostAccess) (s : State) (q : List HostAccess) :
    a.entryExists (s.hostTook q) = a.entryExists s := by
  cases a <;> rfl

/-- A fault of a step that takes an access. -/
theorem fetch_fault_access {s : State} {a : HostAccess} {q : List HostAccess} {f : Fault} (hq : s.hostQueue = a :: q)
    (hf : fetch s = .fault f) :
    ∃ b i, f = .noSuchEntry b i ∧ s.hasEntry b i = false ∧ a.entryExists s = false := by
  have h : (fetch s).FaultsAt a (s.hostTook q) := by
    by_cases hs : s.st = .busy
    · rw [fetch_busyHost hs hq]; exact busyAccess_faultsAt a _
    · rw [fetch_host hs hq]; exact hostAccess_faultsAt a _
  rw [hf] at h
  obtain ⟨b, i, rfl, hi, ha⟩ := h
  exact ⟨b, i, rfl, (s.hasEntry_hostTook q b i).symm.trans hi, (a.entryExists_hostTook s q).symm.trans ha⟩

/-- The command in progress has no numbered step `STEP` (R28). `DECRYPT` has them all. -/
def State.StepMissing (s : State) : Prop :=
  (decodeCommand s.cmd = .ok .deriveKey ∧ kdfStep s.stepNo s = none) ∨
    (decodeCommand s.cmd = .ok .encrypt ∧ encStep s.stepNo s = none)

/-- The sequencer stops only where the command has no such step. -/
theorem step_sequence {s : State} (hs : s.st = .busy) (hq : s.hostQueue = []) :
    (∃ t, step s = .next t) ∨ step s = .fault (.noSuchStep s.stepNo) ∧ s.StepMissing := by
  have hf := fetch_sequence hs hq
  rw [sequence] at hf
  cases hd : decodeCommand s.cmd with
  | rejected r => rw [hd] at hf; exact .inl ⟨_, step_of_settle hf⟩
  | ok i =>
    obtain ⟨rfl, hc⟩ | ⟨rfl, hc⟩ | ⟨rfl, hc⟩ := decodeCommand_ok hd
    · cases hk : kdfStep s.stepNo s with
      | none => rw [hd, hk] at hf; exact .inr ⟨step_of_fault hf, .inl ⟨hd, hk⟩⟩
      | some c => exact .inl ⟨_, step_kdf hs hq hc hk⟩
    · cases hk : encStep s.stepNo s with
      | none => rw [hd, hk] at hf; exact .inr ⟨step_of_fault hf, .inr ⟨hd, hk⟩⟩
      | some c => exact .inl ⟨_, step_enc hs hq hc hk⟩
    · exact .inl ⟨_, step_dec hs hq hc⟩

end Sys2Proof.Machine

namespace Sys2Proof

open Machine

/-- Settles O17: `OUT` holds the output and zeros, and both completions write six fields alone. -/
theorem completionUpdates : Obligations.CompletionUpdates := by
  refine fun s => ⟨fun out hout => ?_, fun e => ⟨fun _ => rfl, rfl, rfl, rfl, rfl, rfl⟩⟩
  have hlen : out.length < 2 ^ 32 := by omega
  exact ⟨s.output_complete hlen, fun _ => s.complete_out_read_of_le, s.complete_outLen_toNat hlen, rfl, rfl, rfl, rfl⟩

/-- Settles O18: in `DONE` every other move of the host leaves the result alone. -/
theorem resultStaysUntilNextCommand : Obligations.ResultStaysUntilNextCommand := by
  intro s t hs ht hcmd hreset
  have hf := fetch_keepsResult (by rw [hs]; decide) hcmd hreset
  obtain ⟨i, u, hr, -⟩ | hset := step_next_cases ht
  · rw [hr] at hf
    exact hf.elim
  · rw [hset] at hf
    exact ⟨hf.st.trans hs, hf.err, hf.outLen, hf.out⟩

/-- Settles O21: such a passphrase fails the check that every command makes first, such an input the second of `DECRYPT`. -/
theorem badOperandsRejected : Obligations.BadOperandsRejected := by
  intro s
  refine ⟨fun h => ?_, fun h => ?_⟩
  · have hp : s.passOperandOk = false := by
      obtain hlong | ⟨i, hi, hentry⟩ := h
      · exact State.passOperandOk_of_long hlong
      · exact State.passOperandOk_of_entry hi ((isScalar_eq_false_iff _).2 hentry)
    refine ⟨fun hb => ?_, ?_, ?_⟩
    · rw [exec_deriveKey, if_neg (ne_false_of_eq_true hb), if_pos hp]
    · rw [exec_encrypt, if_pos hp]
    · rw [exec_decrypt, if_pos (.inl hp)]
  · have hin : s.inOperandOk = false := withinCap_eq_false_iff.2 h
    rw [exec_decrypt, if_pos (.inr hin)]

/-- Settles O36: every command ends in one of the two completions. -/
theorem everyCommandReachesDone : Obligations.EveryCommandReachesDone := by
  intro s i hi
  obtain ⟨t, ht, hend⟩ := exec_command_end hi s
  exact ⟨t, ht, hend.st, hend.reports⟩

/-- Settles O37: the completions write none of these, and only `ENCRYPT` draws before its own. -/
theorem commandFrame : Obligations.CommandFrame := by
  intro s t i hi ht
  obtain ⟨u, hu, hend⟩ := exec_command_end hi s
  cases ht.symm.trans hu
  have f := hend.sameOperands
  exact ⟨f.build, f.cmd, f.passLen, f.inLen, fun _ => by rw [f.pass], fun _ => by rw [f.inBuf], hend.hostQueue, hend.answer,
    hend.freeReads, fun hne => exec_entropy_of_ne_encrypt hi hne ht, hend.entropy⟩

/-- Settles O60: a host access stops at a missing entry only, the sequencer at a missing step only. -/
theorem stepNeverRefuses : Obligations.StepNeverRefuses := by
  intro s
  cases hq : s.hostQueue with
  | nil =>
    by_cases hs : s.st = .busy
    · obtain hnext | ⟨hstep, hmissing⟩ := step_sequence hs hq
      · exact .inl hnext
      · exact .inr (.inr ⟨hstep, hs, rfl, hmissing⟩)
    · exact .inl ⟨s, step_of_settle (fetch_idle hs hq)⟩
  | cons a q =>
    obtain hnext | ⟨f, hf⟩ := step_next_or_fault s
    · exact .inl hnext
    · obtain ⟨b, i, rfl, hi, ha⟩ := fetch_fault_access hq hf
      exact .inr (.inl ⟨b, i, step_of_fault hf, hi, a, q, rfl, ha⟩)

/-- Settles O59: the invariant rules out `BUSY`, the hypothesis a missing entry. -/
theorem stepIsSafe : Obligations.StepIsSafe := by
  intro s h ha
  obtain hnext | ⟨b, i, -, -, a, q, hq, hmissing⟩ | ⟨-, hs, -⟩ := stepNeverRefuses s
  · exact hnext
  · have hexists := ha a (by rw [hq]; rfl)
    exact absurd (hexists.symm.trans hmissing) (by decide)
  · exact absurd hs h.notBusy

end Sys2Proof

/-! Proofs: reset and hazards (R270). The reset pin abandons a command in progress, and no other move of the host or the
sequencer reaches `IDLE`: it leaves `ST` as it was or completes. -/

namespace Sys2Proof.Machine

section Reset
variable {s t u : State} {a : HostAccess} {q : List HostAccess}

/-- A numbered step stays in `BUSY` or completes (R28). -/
theorem Ctl.GoesTo.st {next : Option StepNo} {c : Ctl} (h : c.GoesTo s next) : c.state.st = s.st ∨ c.state.st = .done := by
  cases h with
  | ended hend => exact .inr hend.st
  | more w n => exact .inl rfl
  | drawn w n => exact .inl rfl

/-- While a command runs only a reset touches the result. -/
theorem busyAccess_keepsResult (h : s.SameResult u) (ha : a ≠ .reset) : (busyAccess a u).KeepsResult s := by
  cases a with
  | writeReg r v => cases r <;> exact ⟨h.st, h.err, h.outLen, h.out⟩
  | readReg r => cases r <;> exact ⟨h.st, h.err, h.outLen, h.out⟩
  | writePass i v => exact .guarded ⟨h.st, h.err, h.outLen, h.out⟩
  | writeIn i v => exact .guarded ⟨h.st, h.err, h.outLen, h.out⟩
  | writeOut i v => exact .guarded h
  | readBuf b i => cases b <;> exact .guarded ⟨h.st, h.err, h.outLen, h.out⟩
  | reset => exact absurd rfl ha

/-- A step whose move keeps the result keeps the result: it starts no instruction. -/
theorem Fetched.KeepsResult.of_step (hf : (fetch s).KeepsResult s) (h : step s = .next t) : s.SameResult t := by
  obtain ⟨i, v, hr, -⟩ | hset := step_next_cases h
  · rw [hr] at hf
    exact hf.elim
  · rwa [hset] at hf

/-- A word written to `CMD` between two commands completes, whether it is a command or not (R23, R244). -/
theorem step_writeCmd_st {w : Word} (hs : s.st ≠ .busy) (hq : s.hostQueue = .writeReg .cmd w :: q)
    (h : step s = .next t) : t.st = .done := by
  have hf : fetch s = startCommand (s.hostTook q) w := fetch_host hs hq
  cases hd : decodeCommand w with
  | ok i =>
    obtain ⟨v, hv, hend⟩ := exec_command_end (isCommand_of_decodeCommand hd) ((s.hostTook q).setCmd w)
    cases h.symm.trans ((step_of_run (hf.trans (startCommand_of_ok hd _))).trans hv)
    exact hend.st
  | rejected r =>
    cases h.symm.trans (step_of_settle (hf.trans (startCommand_of_rejected hd _)))
    rfl

/-- A step that does not take the reset pin leaves `ST` as it was or completes (R270). -/
theorem step_st (h : step s = .next t) (hreset : s.hostQueue.head? ≠ some .reset) : t.st = s.st ∨ t.st = .done := by
  by_cases hs : s.st = .busy
  · cases hq : s.hostQueue with
    | nil =>
      obtain ⟨next, c, hc, rfl, -⟩ := step_inProgress hs hq h
      exact hc.st
    | cons a q =>
      rw [hq] at hreset
      have hf : (fetch s).KeepsResult s := by
        rw [fetch_busyHost hs hq]
        exact busyAccess_keepsResult ⟨rfl, rfl, rfl, rfl⟩ (mt (congrArg some) hreset)
      exact .inl (hf.of_step h).st
  · by_cases hcmd : ∃ w, s.hostQueue.head? = some (.writeReg .cmd w)
    · obtain ⟨w, hw⟩ := hcmd
      obtain ⟨q, hq⟩ := List.head?_eq_some_iff.1 hw
      exact .inr (step_writeCmd_st hs hq h)
    · exact .inl ((fetch_keepsResult hs (not_exists.1 hcmd) hreset).of_step h).st

end Reset

end Sys2Proof.Machine

namespace Sys2Proof

/-- Settles O16: a step without the reset pin leaves `ST` as it was or ends in `DONE`. -/
theorem onlyResetReachesIdle : Obligations.OnlyResetReachesIdle := by
  intro s t h hidle
  refine or_iff_not_imp_right.2 fun hreset => ?_
  obtain hsame | hdone := Machine.step_st h hreset
  · exact hsame.symm.trans hidle
  · exact absurd (hidle.symm.trans hdone) (by decide)

/-- Settles O15: the pin acts alike in `BUSY` and outside it. -/
theorem resetPinAbandonsCommand : Obligations.ResetPinAbandonsCommand := fun _ _ hq => Machine.step_reset hq

end Sys2Proof
